-- ==== Sys2Proof/Word.lean ====
section
/-! DEFINITION. Words of the PX-416 and the numbers of its ports, slots and tables. -/

namespace Sys2Proof

abbrev Byte := BitVec 8
/-- A 16-bit field of the exchange area, of a frame or of a tally. -/
abbrev Half := BitVec 16
/-- A register of the window, or a 32-bit field of the exchange area. -/
abbrev Word := BitVec 32

/-- Field ports 0 to 3. -/
abbrev PortNo := Fin 4
/-- Order slots 0 to 15. -/
abbrev SlotNo := Fin 16
/-- Data tables 0 to 7. -/
abbrev TableNo := Fin 8

/-- The byte lanes of a register write: bit i is set when byte i is written (R164). -/
abbrev Lanes := BitVec 4

/-- The levels of RXD sampled at the middles of a character's bits in the order of the line, `true` for mark: the start bit
in bit 0, the data bits in bits 1 to 8, then the parity bit if there is one, then the stop bit (R66, R68). -/
abbrev Levels := BitVec 11

/-- The 64 byte lanes of a burst's answer, the first byte of the burst in lane 0 (R154). -/
abbrev BusData := Vector Byte 64

end Sys2Proof
end

