-- ==== Sys2Proof/Syntax.lean ====
section
/-! DEFINITION. The commands of spec/opcode_table.json, one constructor for each row. -/

namespace Sys2Proof

/-- The status a character arrives with (R68); the first of the spec's list that applies. -/
inductive CharStatus where
  | overrun
  | framingError
  | parityError
  | good
  deriving DecidableEq, Repr

/-- The registers an OTHER_REGISTER_WRITE may name (R164). -/
inductive OtherRegister where
  | control
  | status
  | faultAddress
  deriving DecidableEq, Repr

/-- An answer of the system bus: the event at which the burst it answers was granted, and the bytes of a read. An answer
to a burst that has ended in a bus error or been abandoned is such an answer too, whatever it carries (R161, R163;
log 32). -/
structure BusAnswer where
  event : Nat
  data : BusData
  deriving DecidableEq, Repr

inductive Instr where
  /-- START (R168): the code 1 written to CONTROL. -/
  | start
  /-- STOP (R174): the code 2 written to CONTROL. -/
  | stop
  /-- SOFT_RESET (R177): the code 3, RESET, written to CONTROL. -/
  | softReset
  /-- SWEEP_NOW (R143): the code 4 written to CONTROL. -/
  | sweepNow
  /-- CLEAR_TALLIES (R181): the code 5 written to CONTROL. -/
  | clearTallies
  /-- BASE_WRITE (R165): `value` written to BASE in the byte lanes `lanes`. -/
  | baseWrite (value : Word) (lanes : Lanes)
  /-- ATTENTION_WRITE (R152). -/
  | attentionWrite (value : Word) (lanes : Lanes)
  /-- OTHER_REGISTER_WRITE (R164). -/
  | otherRegisterWrite (reg : OtherRegister) (value : Word) (lanes : Lanes)
  /-- PIN_RESET (R177): RESET_N is asserted. -/
  | pinReset
  /-- PIN_RESET_RELEASE (R177): RESET_N is deasserted. -/
  | pinResetRelease
  /-- CHARACTER_ARRIVAL (R68): the middle of a character's stop bit at a port, with the levels sampled at the middles of
  the character's bits; `edge` when a further start edge was seen before it; `sinh` is the level of the SINH pin at this
  event. -/
  | characterArrival (port : PortNo) (levels : Levels) (edge : Bool) (sinh : Bool)
  /-- GAP_EXCEEDED (R77). -/
  | gapExceeded (port : PortNo)
  /-- GAP_REACHED (R78). -/
  | gapReached (port : PortNo)
  /-- REQUEST_END_OF_TRANSMISSION (R93). -/
  | requestEndOfTransmission (port : PortNo)
  /-- BID_END_OF_TRANSMISSION (R129). -/
  | bidEndOfTransmission (port : PortNo)
  /-- GRANT_END_OF_TRANSMISSION (R134). -/
  | grantEndOfTransmission (port : PortNo)
  /-- ANSWER_END_OF_TRANSMISSION (R123). -/
  | answerEndOfTransmission (port : PortNo)
  /-- LINE_HOLDOFF_END (R93). -/
  | lineHoldoffEnd (port : PortNo)
  /-- BID_HOLDOFF_END (R129). -/
  | bidHoldoffEnd (port : PortNo)
  /-- GRANT_HOLD_END (R134). -/
  | grantHoldEnd (port : PortNo)
  /-- TURNAROUND_END (R123). -/
  | turnaroundEnd (port : PortNo)
  /-- REPLY_TIMEOUT (R97). -/
  | replyTimeout (port : PortNo)
  /-- RETRY_WAIT_END (R104). -/
  | retryWaitEnd (port : PortNo)
  /-- SETTLING_END (R94). -/
  | settlingEnd (port : PortNo)
  /-- BID_TIMER_EXPIRY (R131). -/
  | bidTimerExpiry (port : PortNo)
  /-- GRANT_TIMER_EXPIRY (R137). -/
  | grantTimerExpiry (port : PortNo)
  /-- PERIOD_EXPIRY (R30). -/
  | periodExpiry (slot : SlotNo)
  /-- SWEEP_TIMER_EXPIRY (R142). -/
  | sweepTimerExpiry
  /-- CLAIM_WAIT_LIMIT_EXPIRY (R56): the wait limit of this port's waiting claim. -/
  | claimWaitLimitExpiry (port : PortNo)
  /-- BURST_ANSWERED (R154): the bus answers a burst. -/
  | burstAnswered (answer : BusAnswer)
  /-- BUS_ERROR (R161): the bus answers the burst in progress with an error. -/
  | busError
  /-- BUS_ANSWER_TIMEOUT (R161): 100 µs have passed since the grant of the burst in progress. -/
  | busAnswerTimeout
  /-- DEFERRED_RUN_COMPLETION (R20). -/
  | deferredRunCompletion
  /-- DEFERRED_POST_ENTRY (R5). -/
  | deferredPostEntry
  /-- DEFERRED_TABLE_RECORD_ENTRY (R59). -/
  | deferredTableRecordEntry
  /-- DEFERRED_SWEEP_ENTRY (R145). -/
  | deferredSweepEntry
  /-- DEFERRED_ADOPTION_ENTRY (R172). -/
  | deferredAdoptionEntry
  /-- DEFERRED_STOP_SEQUENCE_ENTRY (R175). -/
  | deferredStopSequenceEntry
  /-- DEFERRED_CLEAR_TALLIES_ENTRY (R166). -/
  | deferredClearTalliesEntry
  /-- DEFERRED_DELIVERY_ENTRY (R35). -/
  | deferredDeliveryEntry
  /-- CONFIRMED_START_EDGE (R69). -/
  | confirmedStartEdge (port : PortNo)
  deriving DecidableEq, Repr

/-- The start bit of a character was confirmed: space at its middle (R68). -/
def startConfirmed (levels : Levels) : Bool := !levels.getLsbD 0

/-- The 32-bit value of a register write: the bytes not written are 0 (R164). -/
def laneValue (value : Word) (lanes : Lanes) : Word :=
  (if lanes.getLsbD 0 then value &&& 0x000000FF else 0) |||
  (if lanes.getLsbD 1 then value &&& 0x0000FF00 else 0) |||
  (if lanes.getLsbD 2 then value &&& 0x00FF0000 else 0) |||
  (if lanes.getLsbD 3 then value &&& 0xFF000000 else 0)

/-- A command code that has a row of its own (R166). -/
def isCommandCode (code : Word) : Bool :=
  code == 1 || code == 2 || code == 3 || code == 4 || code == 5

end Sys2Proof
end

