-- ==== Sys2Proof/Decode.lean ====
section
/-! DEFINITION. The command a word spells. spec/opcode_table.json gives no row any bits: no word spells a command. -/

namespace Sys2Proof

/-- No row of the table has bits (98_reader.md: n_rows_with_fixed 0), so no word is a command. Log 30. -/
def decodeTableWord (_nbits _w : Nat) : Option Instr := none

end Sys2Proof
end

