-- ==== Sys2Proof/Config.lean ====
section
/-! DEFINITION. What the data sheet leaves open: free values (constants without a body, so that nothing can be
proved about the value they take), and the figures the sheet fixes for this part. -/

namespace Sys2Proof.Config

/-- Free value (R161, R163): whether the bus had taken byte `i` of the write burst that failed or was abandoned at
event `event`. "each enabled byte holds either its old value or the value being written". Log 3. -/
opaque busTook (event i : Nat) : Bool

/-- Free value: bits 31..8 of the bus address made from BASE plus an offset when the exact sum lies in the 256-byte
block `block` beyond the 32-bit address space; BASE is not checked (R165) and no rule says where such a block lies, but
that slots and report blocks begin on 64-byte boundaries (R184). Log 4. -/
opaque beyondTop (block : Nat) : BitVec 24

/-- Free value (R55, R59): at event `event`, whether the release that follows port `port`'s table record entry reaches
the claim unit before the events that the entry's wait held back. Log 5. -/
opaque leaveFirst (event port : Nat) : Bool

/-- Exchange write queue, in entries (Table 1, R158). -/
def queueDepth : Nat := 24

/-- The longest burst, and the boundary no burst crosses (R154). -/
def burstBytes : Nat := 64

/-- PROBE's model code (R82). -/
def modelCode : Half := 0x0416

/-- The signature of the global setup (R169). -/
def signature : Word := 0x0000416A

/-- The bound on the pieces of internal work one event may set off in the model; no reachable event comes near it.
Log 27. -/
def settleFuel : Nat := 4096

end Sys2Proof.Config
end

