-- ==== Sys2Proof/Machine/State.lean ====
section
/-! DEFINITION. The state of the PX-416 as plain data, and its value after reset.
`Window` is what only register writes and resets change; `Part` is everything else inside the part; `State` adds the
controller memory as the part's writes have left it and the queue of waiting commands. -/

namespace Sys2Proof.Machine

/-- Nobody raises a fault: the spec gives every command an effect, or says that it has none. The part's own FAULTED
state is a state, not a fault of the model. -/
inductive Fault
  deriving DecidableEq, Repr

/-- The one reason for a refusal. -/
inductive Refusal where
  /-- Raised by an arm of `exec` that has no meaning yet (safe); no arm raises it. -/
  | notModelled (mnemonic : String)
  deriving DecidableEq, Repr

/-! ### Engine control -/

/-- Table 10-1. -/
inductive EngineState where
  | halted
  | loading
  | running
  | stopping
  | stopped
  | faulted
  deriving DecidableEq, Repr

/-- R167. -/
inductive FaultCode where
  | none
  | loadRead
  | sweepRead
  | exchangeWrite
  deriving DecidableEq, Repr

/-- Global setup, Table 12-4. -/
structure GlobalSetup where
  signature : Word
  sweepInterval : Byte
  silenceLimit : Byte
  claimWaitLimit : Byte
  deriving DecidableEq, Repr

/-- Port setup, Table 12-5. -/
structure PortSetup where
  role : Byte
  speed : Byte
  parity : Byte
  ownStation : Byte
  partnerStation : Byte
  gapLimit : Byte
  turnaround : Byte
  bidLimit : Byte
  replyTimeout : Half
  deriving DecidableEq, Repr

/-- Static part of a table entry, Table 12-6. -/
structure TableEntry where
  present : Byte
  kind : Byte
  access : Byte
  notify : Byte
  base : Word
  length : Word
  deriving DecidableEq, Repr

/-- The setup read at LOADING: global setup, port setups and table directory (R172). -/
structure Setup where
  global : GlobalSetup
  ports : Vector PortSetup 4
  tables : Vector TableEntry 8
  deriving DecidableEq, Repr

/-- Where a LOADING stands (R166 note 1, R168, R172). -/
inductive LoadPhase where
  | idle
  /-- START taken while report block entries of CLEAR_TALLIES are still to be queued. -/
  | clearing
  /-- Setup read `k` of Table 10-5 outstanding: 0 global, 1 to 4 ports, 5 to 12 tables. -/
  | setupRead (k : Nat)
  /-- Adoption read `k` outstanding: 0 to 15 slots, 16 to 23 tables. -/
  | adoptRead (k : Nat)
  /-- Adoption entry `k` next: 0 to 15 slots, 16 to 23 tables, 24 to 27 report blocks, 28 the header. -/
  | adopting (k : Nat)
  deriving DecidableEq, Repr

structure Loader where
  phase : LoadPhase
  candidate : Setup
  hostWords : Vector Word 16
  holdWords : Vector Word 8
  stopHeld : Bool
  deriving DecidableEq, Repr

/-- The next entry of the stop sequence (R175). -/
inductive StopStage where
  | holds (table : Nat)
  | slots (slot : Nat)
  | header
  deriving DecidableEq, Repr

/-! ### Slot manager -/

/-- Table 12-9. -/
inductive SlotState where
  | vacant
  | taken
  | queued
  | active
  | done
  | failed
  | rejected
  | withdrawn
  deriving DecidableEq, Repr

/-- Table 1-2. -/
inductive PostOutcome where
  | acted
  | ignoredBusy
  | ignoredNoop
  deriving DecidableEq, Repr

/-- The 20 used bytes of an order record, Table 12-8. -/
structure Order where
  port : Byte
  kind : Byte
  station : Byte
  flags : Byte
  localTable : Byte
  remoteTable : Byte
  retries : Byte
  follows : Byte
  localIndex : Half
  remoteIndex : Half
  count : Half
  period : Half
  andMask : Half
  orMask : Half
  deriving DecidableEq, Repr

/-- Result record, Table 12-10. -/
structure ResultRecord where
  outcome : Byte
  remoteReason : Byte
  attempts : Byte
  tag : Byte
  overruns : Half
  sweepCount : Word
  replyData : Vector Byte 8
  deriving DecidableEq, Repr

/-- Internal state of one slot, Table 1-3; with it the post outcome that R23 has completions carry and the period timer
of R30. -/
structure Slot where
  state : SlotState
  seenPost : Half
  postOutcome : PostOutcome
  completions : Half
  withdrawMark : Bool
  owed : Bool
  overruns : Half
  brokenMark : Bool
  repeatFlag : Bool
  order : Order
  result : ResultRecord
  periodTimer : Bool
  deriving DecidableEq, Repr

/-- What is still to be done in a delivery event (R35, R36). -/
inductive TreeTask where
  /-- The part word of the slot `slot`, whose WITHDRAW post began the event (R15). -/
  | word (slot : SlotNo)
  /-- The follower `slot` receives a failed completion (R34). -/
  | failed (slot : SlotNo)
  /-- The follower `slot` is told that its predecessor has left service (R36). -/
  | left (slot : SlotNo)
  deriving DecidableEq, Repr

/-- What reached the slot manager and is not yet taken (R5, R20, R35). -/
inductive JobKind where
  /-- A run's ending held by its port (R20). -/
  | runEnding (port : PortNo)
  /-- The part word entry of a post that takes no order (R5). -/
  | postWord (slot : SlotNo)
  /-- The part word entry of a post that has taken an order (R13, R29). -/
  | takeWord (slot : SlotNo)
  /-- The entry of a rejection, and the notify flag of the rejected record (R12). -/
  | rejection (slot : SlotNo) (notify : Bool)
  /-- A period expiry held back by a delivery tree (R35). -/
  | expiry (slot : SlotNo)
  deriving DecidableEq, Repr

structure Job where
  kind : JobKind
  /-- The event at which it reached the slot manager. -/
  since : Nat
  deriving DecidableEq, Repr

/-! ### Claim unit -/

inductive Claimant where
  | port (p : PortNo)
  | hold
  deriving DecidableEq, Repr

inductive ClaimMode where
  | shared
  | exclusive
  | hold
  deriving DecidableEq, Repr

/-- Table 3-4; the arrival is the place in the list. -/
structure Claim where
  claimant : Claimant
  mode : ClaimMode
  first : Nat
  count : Nat
  granted : Bool
  deriving DecidableEq, Repr

/-- R58. -/
inductive HoldState where
  | free
  | pending
  | held
  deriving DecidableEq, Repr

/-- Last store record, Table 12-6. -/
structure LastStore where
  port : Byte
  kind : Byte
  tag : Byte
  index : Half
  count : Half
  deriving DecidableEq, Repr

/-- Table record of R58. -/
structure TableRecord where
  holdState : HoldState
  seenHold : Half
  storeTally : Half
  lastStore : LastStore
  deriving DecidableEq, Repr

/-- What reaches the claim unit (R51, R59). -/
inductive ClaimInput where
  | arrive (port : PortNo) (table : TableNo) (mode : ClaimMode) (first count : Nat)
  | leave (port : PortNo)
  | expire (port : PortNo)
  /-- The memory writes of a responder store or modify are done (R63). -/
  | stored (port : PortNo)
  /-- A hold host word handed over by the sweep (R60). -/
  | holdPost (table : TableNo) (wanted : Byte) (post : Half)
  deriving DecidableEq, Repr

/-! ### Field ports -/

/-- R73 to R78. -/
inductive ReceiverState where
  | inactive
  | hunt
  | collect
  | discard
  deriving DecidableEq, Repr

structure Receiver where
  state : ReceiverState
  buffer : List Byte
  bodyLength : Option Nat
  check : Half
  deriving DecidableEq, Repr

/-- Initiator and responder states, Tables 5-1, 6-1 and 7-1. -/
inductive Activity where
  | inactive
  | offline
  | idle
  | preparing
  | bidding
  | sending
  | awaiting
  | depositing
  | settling
  | retryWait
  | grantedOut
  | serving
  | turnaround
  | replying
  deriving DecidableEq, Repr

/-- What a port transmits; DRVEN is asserted while it does (R72). -/
inductive Transmission where
  | request
  | bid
  | grant
  | answer
  deriving DecidableEq, Repr

/-- The retryable failures of R103. -/
inductive RunFailure where
  | noReply
  | garbled
  | noGrant
  | busy
  deriving DecidableEq, Repr

/-- The ending of a run, held by its port until the slot manager takes it (R105). -/
structure RunEnding where
  outcome : Byte
  reason : Byte
  deriving DecidableEq, Repr

/-- What a run carries out: a slot, and the order cached for it (Table 5-2). -/
structure Work where
  slot : SlotNo
  order : Order
  deriving DecidableEq, Repr

/-- Run record, Table 5-2, and the ending while it waits to be taken. A run is in progress exactly while there is work
(R86). -/
structure Run where
  work : Option Work
  tag : Byte
  started : Nat
  allowed : Nat
  lastFailure : Option RunFailure
  replyData : Vector Byte 8
  suspended : Bool
  ending : Option RunEnding
  deriving DecidableEq, Repr

inductive ServiceResult where
  | none
  | reply
  | refusal (reason : Byte)
  | replay
  deriving DecidableEq, Repr

/-- Service record, Table 6-2. -/
structure Service where
  station : Byte
  kind : Byte
  tag : Byte
  check : Half
  broadcast : Bool
  table : Byte
  index : Half
  count : Half
  andMask : Half
  orMask : Half
  result : ServiceResult
  deriving DecidableEq, Repr

inductive BidPhase where
  | none
  | holdoff
  | transmitting
  | waiting
  deriving DecidableEq, Repr

inductive GrantPhase where
  | none
  | pending
  | transmitting
  | granted
  deriving DecidableEq, Repr

/-- Peer record, Table 7-2: the bid timer runs exactly in bid phase waiting, the grant timer exactly in grant phase
granted (R129, R134). -/
structure Peer where
  bidsSpent : Nat
  bidPhase : BidPhase
  grantPhase : GrantPhase
  grantedTag : Byte
  deriving DecidableEq, Repr

/-- Replay memory when it is not empty (R110). -/
structure Replay where
  kind : Byte
  tag : Byte
  check : Half
  answer : List Byte
  deriving DecidableEq, Repr

/-- Table 11-1, in the order of Table 12-7. -/
structure Tallies where
  framesAccepted : Half
  droppedCheck : Half
  droppedFormat : Half
  droppedGap : Half
  droppedBusy : Half
  foreign : Half
  replyTimeouts : Half
  refusalsSent : Half
  refusalsReceived : Half
  replays : Half
  bidsLost : Half
  droppedUnbid : Half
  deriving DecidableEq, Repr

/-- Table 12-7, byte +0x18. -/
inductive FaultKind where
  | none
  | noReply
  | garbled
  | refusalSent
  | refusalReceived
  | claimTimeout
  | busError
  deriving DecidableEq, Repr

/-- Fault record, Table 11-2. -/
structure FaultRecord where
  kind : FaultKind
  slot : Byte
  station : Byte
  request : Byte
  tag : Byte
  reason : Byte
  sweepCount : Word
  deriving DecidableEq, Repr

/-- An access handed to the memory port: what is left of it, from the address of the next byte (R154). -/
inductive Access where
  | read (addr left : Nat) (got : List Byte)
  | write (addr : Nat) (bytes : List Byte)
  deriving DecidableEq, Repr

/-- What a port's outstanding access is for (R90, R100, R117 to R119, R157). -/
inductive MemStep where
  | none
  | read
  | edgeFirst
  | edgeLast
  | span
  | modifyRead
  | modifyWrite
  deriving DecidableEq, Repr

structure Port where
  receiver : Receiver
  /-- The characters under way on RXD: begun with a confirmed start edge since the receiver machine became active, and not
  arrived (R68, R73). -/
  underWay : Nat
  /-- The gap timer measures silence (R69). -/
  silence : Bool
  activity : Activity
  tx : Option Transmission
  txBuffer : List Byte
  answerBuffer : List Byte
  dataHold : List Byte
  /-- The turnaround delay after the last frame reported GOOD has not passed: the line holdoff (R93). -/
  holdoff : Bool
  /-- The turnaround delay after the request being answered has not passed (R123). -/
  answerDelay : Bool
  tagCounter : Byte
  run : Run
  service : Service
  peer : Peer
  replay : Option Replay
  tallies : Tallies
  fault : FaultRecord
  access : Option Access
  memStep : MemStep
  edgeFirst : Byte
  edgeLast : Byte
  oldValue : Half
  /-- The event of the latest expiry of the port's reply timeout, bid timer or grant timer; it says nothing once that event
  has passed. The model's own record (log 41). -/
  lapsed : Option Nat
  deriving DecidableEq, Repr

/-! ### Sweep unit -/

inductive Presence where
  | present
  | absent
  deriving DecidableEq, Repr

/-- Where a sweep stands (R144, R145). -/
inductive SweepPhase where
  | idle
  /-- The host mark is being read. -/
  | mark
  /-- The host word of slot `n` is being read. -/
  | slot (n : Nat)
  /-- The host word of slot `n` is being handed to the slot manager. -/
  | post (n : Nat)
  /-- The order record of slot `n` is being read. -/
  | order (n : Nat)
  /-- The order record of slot `n` is being handed to the slot manager. -/
  | check (n : Nat)
  /-- The slot manager has not finished the post of slot `n`. -/
  | postWait (n : Nat)
  /-- The hold host word of table `t` is being read. -/
  | hold (t : Nat)
  /-- The claim unit has not taken the hold host word of table `t`. -/
  | holdWait (t : Nat)
  /-- The report block entry of port `p` is next. -/
  | report (p : Nat)
  /-- The header entry is next. -/
  | header
  deriving DecidableEq, Repr

/-- Table 8-2; and what the step in progress has read. -/
structure Sweep where
  phase : SweepPhase
  markRead : Word
  word : Word
  orderRead : Order
  timer : Bool
  pending : Bool
  count : Word
  overruns : Word
  lastMark : Option Word
  silence : Byte
  presence : Presence
  deriving DecidableEq, Repr

/-! ### Memory port -/

/-- Table 9-1, in the order of the circle of R155. -/
inductive Requester where
  | sweep
  | port (p : PortNo)
  | writer
  deriving DecidableEq, Repr

/-- A burst on the bus; `discarded` when its access was abandoned by a STOP in LOADING (R168). `event`, the event of its
grant, is what its answer names it by. -/
structure Burst where
  who : Requester
  addr : Nat
  len : Nat
  discarded : Bool
  event : Nat
  deriving DecidableEq, Repr

/-- A piece of an exchange write entry, or what is left of it (R158). -/
structure Piece where
  addr : Nat
  bytes : List Byte
  deriving DecidableEq, Repr

/-- An entry of the exchange write queue, Table 9-4. -/
structure Entry where
  pieces : List Piece
  deriving DecidableEq, Repr

/-- The producers that may wait for room (R160). -/
inductive Producer where
  | slotManager
  | claimUnit
  | sweepUnit
  | engineControl
  deriving DecidableEq, Repr

/-- A producer's wait, and the event at which it began. -/
structure Waiter where
  who : Producer
  since : Nat
  deriving DecidableEq, Repr

/-! ### The whole -/

/-- What only register writes and resets change. -/
structure Window where
  base : Word
  control : BitVec 3
  refused : Bool
  enables : BitVec 5
  resetAsserted : Bool
  deriving DecidableEq, Repr

structure Part where
  engine : EngineState
  setupError : BitVec 4
  faultCode : FaultCode
  faultAddress : Word
  causes : BitVec 5
  setup : Setup
  loader : Loader
  stopSequence : Option StopStage
  clearPending : List PortNo
  slots : Vector Slot 16
  queues : Vector (List SlotNo) 4
  tree : List TreeTask
  jobs : List Job
  tables : Vector TableRecord 8
  claims : Vector (List Claim) 8
  inbox : List ClaimInput
  ports : Vector Port 4
  sweep : Sweep
  xq : List Entry
  waiters : List Waiter
  sweepAccess : Option Access
  bus : Option Burst
  pointer : Requester
  /-- The model's own count of events. -/
  eventNo : Nat
  deriving DecidableEq, Repr

structure State where
  window : Window
  part : Part
  /-- Controller memory as the part's write bursts have left it. -/
  memory : List Host.Cell
  pending : List Instr
  deriving DecidableEq, Repr

/-! ### Reset values -/

def GlobalSetup.reset : GlobalSetup := ⟨0, 0, 0, 0⟩

/-- Role OFF; the adopted setup is lost at a reset (R177). -/
def PortSetup.reset : PortSetup := ⟨0, 0, 0, 0, 0, 0, 0, 0, 0⟩

/-- Absent (R45). -/
def TableEntry.reset : TableEntry := ⟨0, 0, 0, 0, 0, 0⟩

def Setup.reset : Setup :=
  ⟨GlobalSetup.reset, Vector.replicate 4 PortSetup.reset, Vector.replicate 8 TableEntry.reset⟩

def Loader.reset : Loader :=
  ⟨.idle, Setup.reset, Vector.replicate 16 0, Vector.replicate 8 0, false⟩

def Order.zero : Order := ⟨0, 0, 0, 0, 0, 0, 0, 0, 0, 0, 0, 0, 0, 0⟩

def zeroReply : Vector Byte 8 := Vector.replicate 8 0

def ResultRecord.zero : ResultRecord := ⟨0, 0, 0, 0, 0, 0, zeroReply⟩

/-- Table 1-3. -/
def Slot.reset : Slot :=
  ⟨.vacant, 0, .acted, 0, false, false, 0, false, false, Order.zero, ResultRecord.zero, false⟩

def LastStore.zero : LastStore := ⟨0, 0, 0, 0, 0⟩

/-- R58. -/
def TableRecord.reset : TableRecord := ⟨.free, 0, 0, LastStore.zero⟩

def Receiver.reset : Receiver := ⟨.inactive, [], none, 0xFFFF⟩

/-- Table 5-2. -/
def Run.initial : Run := ⟨none, 0, 0, 1, none, zeroReply, false, none⟩

/-- Table 6-2. -/
def Service.initial : Service := ⟨0, 0, 0, 0, false, 0, 0, 0, 0, 0, .none⟩

/-- Table 7-2. -/
def Peer.initial : Peer := ⟨0, .none, .none, 0⟩

def Tallies.zero : Tallies := ⟨0, 0, 0, 0, 0, 0, 0, 0, 0, 0, 0, 0⟩

/-- R180: every field 0. -/
def FaultRecord.empty : FaultRecord := ⟨.none, 0, 0, 0, 0, 0, 0⟩

def Port.reset : Port where
  receiver := Receiver.reset
  underWay := 0
  silence := false
  activity := .inactive
  tx := none
  txBuffer := []
  answerBuffer := []
  dataHold := []
  holdoff := false
  answerDelay := false
  tagCounter := 0
  run := Run.initial
  service := Service.initial
  peer := Peer.initial
  replay := none
  tallies := Tallies.zero
  fault := FaultRecord.empty
  access := none
  memStep := .none
  edgeFirst := 0
  edgeLast := 0
  oldValue := 0
  lapsed := none

/-- Table 8-2. -/
def Sweep.reset : Sweep := ⟨.idle, 0, 0, Order.zero, false, false, 0, 0, none, 0, .present⟩

/-- Every block at the value its chapter gives after reset (R177). -/
def Part.reset : Part where
  engine := .halted
  setupError := 0
  faultCode := .none
  faultAddress := 0
  causes := 0
  setup := Setup.reset
  loader := Loader.reset
  stopSequence := none
  clearPending := []
  slots := Vector.replicate 16 Slot.reset
  queues := Vector.replicate 4 []
  tree := []
  jobs := []
  tables := Vector.replicate 8 TableRecord.reset
  claims := Vector.replicate 8 []
  inbox := []
  ports := Vector.replicate 4 Port.reset
  sweep := Sweep.reset
  xq := []
  waiters := []
  sweepAccess := none
  bus := none
  pointer := .sweep
  eventNo := 0

/-- Table 10-2, pin reset. -/
def Window.reset : Window := ⟨0, 0, false, 0, false⟩

/-- The machine right after a pin reset and its release (R177), with nothing written to memory and no command
waiting. -/
def State.reset : State := ⟨Window.reset, Part.reset, [], []⟩

end Sys2Proof.Machine
end

