-- ==== Sys2Proof/Machine/Operands.lean ====
section
/-! DEFINITION. The byte forms of chapter 12 and of the frames: fields read from bytes, records laid out as bytes, the
check, bit runs, and the codes. -/

namespace Sys2Proof.Machine

/-! ### Little-endian fields (R184) -/

def byteAt (l : List Byte) (i : Nat) : Byte := l.getD i 0

def halfAt (l : List Byte) (i : Nat) : Half := byteAt l (i + 1) ++ byteAt l i

def wordAt (l : List Byte) (i : Nat) : Word := halfAt l (i + 2) ++ halfAt l i

def halfBytes (h : Half) : List Byte := [h.extractLsb' 0 8, h.extractLsb' 8 8]

def wordBytes (w : Word) : List Byte :=
  [w.extractLsb' 0 8, w.extractLsb' 8 8, w.extractLsb' 16 8, w.extractLsb' 24 8]

/-! ### Characters (R66, R68) -/

/-- The data bits of a character hold an odd number of ones. -/
def oddOnes (v : Byte) : Bool := (List.range 8).foldl (fun acc i => acc ^^ v.getLsbD i) false

/-- The parity bit: with EVEN it makes the number of ones even, with ODD odd; none with NONE (Table 12-5). -/
def parityBits (parity v : Byte) : List Bool :=
  if parity == 0 then [] else if parity == 1 then [oddOnes v] else [!oddOnes v]

/-- The levels of a character, mark as `true`: start bit, data bits from the least significant, parity bit, stop bit. -/
def charLevels (parity v : Byte) : List Bool :=
  false :: (List.range 8).map v.getLsbD ++ parityBits parity v ++ [true]

/-- The value of an arriving character. -/
def charValue (levels : Levels) : Byte := levels.extractLsb' 1 8

/-- The place of the stop bit. -/
def stopPlace (parity : Byte) : Nat := if parity == 0 then 9 else 10

/-- The parity bit sampled does not agree with the parity setting. -/
def parityFails (parity : Byte) (levels : Levels) : Bool :=
  parity != 0 && [levels.getLsbD 9] != parityBits parity (charValue levels)

/-- The status of an arriving character, the first that applies (R68); `edge` when a further start edge has been seen. -/
def charStatus (parity : Byte) (levels : Levels) (edge : Bool) : CharStatus :=
  if edge then .overrun
  else if !levels.getLsbD (stopPlace parity) then .framingError
  else if parityFails parity levels then .parityError
  else .good

/-- The lead character of a frame (R70). -/
def leadByte : Byte := 0xC5

/-! ### Kinds (Table 12-11) -/

def kindFetchWords : Byte := 0x11
def kindFetchBits : Byte := 0x12
def kindStoreWords : Byte := 0x13
def kindStoreBits : Byte := 0x14
def kindModifyWord : Byte := 0x15
def kindProbe : Byte := 0x16
def kindClearTally : Byte := 0x17
def kindBid : Byte := 0x21
def kindGrant : Byte := 0x22
def kindRefusal : Byte := 0x7E

/-- A reply carries the code of its request plus 0x40 (R80). -/
def replyKind (request : Byte) : Byte := request + 0x40

def isFetch (k : Byte) : Bool := k == kindFetchWords || k == kindFetchBits

def isStore (k : Byte) : Bool := k == kindStoreWords || k == kindStoreBits

/-- The seven order and request kinds. -/
def isRequestCode (k : Byte) : Bool :=
  isFetch k || isStore k || k == kindModifyWord || k == kindProbe || k == kindClearTally

/-- The kinds that name a table (Table 6-4 note 3). -/
def namesTable (k : Byte) : Bool := isFetch k || isStore k || k == kindModifyWord

def isBitKind (k : Byte) : Bool := k == kindFetchBits || k == kindStoreBits

def isBroadcastable (k : Byte) : Bool := isStore k || k == kindClearTally

/-- The writing requests of R49. -/
def isWriting (k : Byte) : Bool := isStore k || k == kindModifyWord

/-- 0x51 to 0x57 (R108). -/
def isReplyCode (k : Byte) : Bool := 0x51#8 ≤ k && k ≤ 0x57#8

/-- A request in the sense of R108: not a reply, REFUSAL, BID or GRANT kind. -/
def isRequestFrame (k : Byte) : Bool :=
  !isReplyCode k && k != kindRefusal && k != kindBid && k != kindGrant

/-! ### Refusal reasons (Table 12-13), outcomes and rejection codes (Table 12-12) -/

def reasonUnknownKind : Byte := 1
def reasonBadBody : Byte := 2
def reasonNoTable : Byte := 3
def reasonOutOfRange : Byte := 4
def reasonProtected : Byte := 5
def reasonBusy : Byte := 6
def reasonHostAbsent : Byte := 7
def reasonHostFault : Byte := 8

/-- BUSY, HOST_ABSENT and HOST_FAULT (R84). -/
def isTransient (reason : Byte) : Bool :=
  reason == reasonBusy || reason == reasonHostAbsent || reason == reasonHostFault

def outcomeOk : Byte := 0x00
def outcomeNoReply : Byte := 0x10
def outcomeGarbled : Byte := 0x11
def outcomeRemoteRefused : Byte := 0x12
def outcomeNoGrant : Byte := 0x13
def outcomeClaimTimeout : Byte := 0x14
def outcomeTableFault : Byte := 0x15
def outcomeChainBroken : Byte := 0x16
def outcomeStopped : Byte := 0x17

def badPort : Byte := 0x21
def badKind : Byte := 0x22
def badStation : Byte := 0x23
def badCount : Byte := 0x24
def badLocal : Byte := 0x25
def badRemote : Byte := 0x26
def badRetries : Byte := 0x27
def badFollows : Byte := 0x28
def followsWithPeriod : Byte := 0x29
def chainLoop : Byte := 0x2A

/-! ### Codes of states (Tables 12-3, 12-7, 12-8, 12-9) -/

def EngineState.code : EngineState → Byte
  | .halted => 0
  | .loading => 1
  | .running => 2
  | .stopping => 3
  | .stopped => 4
  | .faulted => 5

def Presence.code : Presence → Byte
  | .present => 0
  | .absent => 1

def FaultCode.code : FaultCode → BitVec 2
  | .none => 0
  | .loadRead => 1
  | .sweepRead => 2
  | .exchangeWrite => 3

def SlotState.code : SlotState → Byte
  | .vacant => 0
  | .taken => 1
  | .queued => 2
  | .active => 3
  | .done => 4
  | .failed => 5
  | .rejected => 6
  | .withdrawn => 7

def PostOutcome.code : PostOutcome → Byte
  | .acted => 0
  | .ignoredBusy => 1
  | .ignoredNoop => 2

def HoldState.code : HoldState → Byte
  | .free => 0
  | .pending => 1
  | .held => 2

def FaultKind.code : FaultKind → Byte
  | .none => 0
  | .noReply => 1
  | .garbled => 2
  | .refusalSent => 3
  | .refusalReceived => 4
  | .claimTimeout => 5
  | .busError => 6

/-! ### Setup (Tables 12-4, 12-5, 12-6) -/

def GlobalSetup.ofBytes (l : List Byte) : GlobalSetup where
  signature := wordAt l 0
  sweepInterval := byteAt l 4
  silenceLimit := byteAt l 5
  claimWaitLimit := byteAt l 6

def PortSetup.ofBytes (l : List Byte) : PortSetup where
  role := byteAt l 0
  speed := byteAt l 1
  parity := byteAt l 2
  ownStation := byteAt l 3
  partnerStation := byteAt l 4
  gapLimit := byteAt l 5
  turnaround := byteAt l 6
  bidLimit := byteAt l 7
  replyTimeout := halfAt l 8

def TableEntry.ofBytes (l : List Byte) : TableEntry where
  present := byteAt l 0
  kind := byteAt l 1
  access := byteAt l 2
  notify := byteAt l 3
  base := wordAt l 4
  length := wordAt l 8

inductive Role where
  | off
  | master
  | responder
  | peer
  deriving DecidableEq, Repr

/-- The role of an adopted setup, whose code R170 has found to be 0 to 3. -/
def PortSetup.roleOf (p : PortSetup) : Role :=
  if p.role == 0 then .off
  else if p.role == 1 then .master
  else if p.role == 2 then .responder
  else .peer

/-- Present is bit 0 of its byte (Table 12-6). -/
def TableEntry.isPresent (t : TableEntry) : Bool := t.present.getLsbD 0

def TableEntry.notifies (t : TableEntry) : Bool := t.notify.getLsbD 0

def TableEntry.isBits (t : TableEntry) : Bool := t.kind == 1

/-- R46. -/
def TableEntry.byteSize (t : TableEntry) : Nat :=
  if t.isBits then (t.length.toNat + 7) / 8 else 2 * t.length.toNat

/-- First byte of elements `first` to `first + count - 1`, and how many bytes hold them (R46). -/
def TableEntry.span (t : TableEntry) (first count : Nat) : Nat × Nat :=
  if t.isBits then
    (t.base.toNat + first / 8, (first + count - 1) / 8 - first / 8 + 1)
  else
    (t.base.toNat + 2 * first, 2 * count)

/-! ### Orders and host words (Table 12-8) -/

def Order.ofBytes (l : List Byte) : Order where
  port := byteAt l 0
  kind := byteAt l 1
  station := byteAt l 2
  flags := byteAt l 3
  localTable := byteAt l 4
  remoteTable := byteAt l 5
  retries := byteAt l 6
  follows := byteAt l 7
  localIndex := halfAt l 8
  remoteIndex := halfAt l 10
  count := halfAt l 12
  period := halfAt l 14
  andMask := halfAt l 16
  orMask := halfAt l 18

def Order.notify (o : Order) : Bool := o.flags.getLsbD 0

def Order.urgent (o : Order) : Bool := o.flags.getLsbD 1

/-- The order names a predecessor (R27). -/
def Order.isFollower (o : Order) : Bool := o.follows != 0xFF

def Order.isPeriodic (o : Order) : Bool := !o.isFollower && o.period != 0

/-- The port of a taken order, whose field R7 has found to be 0 to 3. -/
def Order.portNo (o : Order) : PortNo := Fin.ofNat 4 o.port.toNat

/-- The local table of an order or the table of a validated request, found to be 0 to 7. -/
def tableNo (b : Byte) : TableNo := Fin.ofNat 8 b.toNat

/-- Byte 0 of a host word: the request, or the wanted hold. -/
def hostRequest (w : Word) : Byte := w.extractLsb' 0 8

/-- Bytes 2 and 3 of a host word: the post number. -/
def hostPost (w : Word) : Half := w.extractLsb' 16 16

/-! ### Part fields of the exchange area -/

/-- Part word, slot +0x24 (Table 12-8). -/
def partWordBytes (s : Slot) : List Byte :=
  [s.state.code, s.postOutcome.code] ++ halfBytes s.seenPost ++ halfBytes s.completions ++ [0, 0]

/-- Result record, slot +0x2C (Table 12-10). -/
def resultBytes (r : ResultRecord) : List Byte :=
  [r.outcome, r.remoteReason, r.attempts, r.tag] ++ halfBytes r.overruns ++ [0, 0] ++
    wordBytes r.sweepCount ++ r.replyData.toList

/-- Table record entry, table entry +0x10 (Table 12-6). -/
def tableRecordBytes (t : TableRecord) : List Byte :=
  [t.holdState.code, 0] ++ halfBytes t.seenHold ++ halfBytes t.storeTally ++ [0, 0] ++
    [t.lastStore.port, t.lastStore.kind, t.lastStore.tag] ++ halfBytes t.lastStore.index ++
    halfBytes t.lastStore.count ++ [0]

def talliesBytes (t : Tallies) : List Byte :=
  halfBytes t.framesAccepted ++ halfBytes t.droppedCheck ++ halfBytes t.droppedFormat ++
    halfBytes t.droppedGap ++ halfBytes t.droppedBusy ++ halfBytes t.foreign ++
    halfBytes t.replyTimeouts ++ halfBytes t.refusalsSent ++ halfBytes t.refusalsReceived ++
    halfBytes t.replays ++ halfBytes t.bidsLost ++ halfBytes t.droppedUnbid

def faultBytes (f : FaultRecord) : List Byte :=
  [f.kind.code, f.slot, f.station, f.request, f.tag, f.reason, 0, 0] ++ wordBytes f.sweepCount ++
    [0, 0, 0, 0]

/-- Report block, +0x00 to +0x27 (Table 12-7). -/
def reportBytes (t : Tallies) (f : FaultRecord) : List Byte := talliesBytes t ++ faultBytes f

/-- Header entry, offsets 0x004 to 0x00F (R145, Table 12-3). -/
def headerBytes (count : Word) (e : EngineState) (p : Presence) (overruns : Word) : List Byte :=
  wordBytes count ++ [e.code, p.code, 0, 0] ++ wordBytes overruns

/-! ### The check (R71) -/

/-- One of the eight shifts. -/
def crcShift (c : Half) : Half :=
  if c.getMsbD 0 then (c <<< 1) ^^^ 0x1021 else c <<< 1

/-- One covered byte: exclusive-or into the upper eight bits, then eight shifts. -/
def crcByte (c : Half) (b : Byte) : Half :=
  Nat.repeat crcShift 8 (c ^^^ (b ++ (0 : Byte)))

def crc (l : List Byte) : Half := l.foldl crcByte 0xFFFF

/-! ### Frames (R70) -/

/-- A frame the receiver machine has reported GOOD (R79). -/
structure Frame where
  station : Byte
  kind : Byte
  tag : Byte
  body : List Byte
  check : Half
  deriving DecidableEq, Repr

/-- The covered bytes of a frame: station, kind, tag, length and body. -/
def coveredBytes (station kind tag : Byte) (body : List Byte) : List Byte :=
  [station, kind, tag, BitVec.ofNat 8 body.length] ++ body

/-- A frame proper, its check low byte first. -/
def frameProper (station kind tag : Byte) (body : List Byte) : List Byte :=
  coveredBytes station kind tag body ++ halfBytes (crc (coveredBytes station kind tag body))

/-- The frame in a complete receive buffer whose length byte gave `n`. -/
def Frame.ofBuffer (buf : List Byte) (n : Nat) : Frame where
  station := byteAt buf 0
  kind := byteAt buf 1
  tag := byteAt buf 2
  body := (buf.drop 4).take n
  check := halfAt buf (4 + n)

/-! ### Bodies (R81, R82, Table 12-16) -/

def bodyTable (b : List Byte) : Byte := byteAt b 0
def bodyIndex (b : List Byte) : Half := halfAt b 1
def bodyCount (b : List Byte) : Half := halfAt b 3

/-- Bytes of a bit run (R81). -/
def bitBytes (count : Nat) : Nat := (count + 7) / 8

/-- Whether a request body is consistent with its kind and its count (Table 4-7). -/
def requestConsistent (kind : Byte) (body : List Byte) : Bool :=
  let count := (bodyCount body).toNat
  if kind == kindFetchWords then body.length == 5 && (1 ≤ count && count ≤ 120)
  else if kind == kindFetchBits then body.length == 5 && (1 ≤ count && count ≤ 960)
  else if kind == kindStoreWords then
    5 ≤ body.length && (1 ≤ count && count ≤ 120) && body.length == 5 + 2 * count
  else if kind == kindStoreBits then
    5 ≤ body.length && (1 ≤ count && count ≤ 960) && body.length == 5 + bitBytes count
  else if kind == kindModifyWord then body.length == 7
  else body.length == 0

/-- Whether a reply body is consistent with the request that the order made (Table 4-8). -/
def replyConsistent (o : Order) (body : List Byte) : Bool :=
  let echoes := bodyTable body == o.remoteTable && bodyIndex body == o.remoteIndex
  let count := o.count.toNat
  if o.kind == kindFetchWords then
    body.length == 5 + 2 * count && echoes && bodyCount body == o.count
  else if o.kind == kindFetchBits then
    body.length == 5 + bitBytes count && echoes && bodyCount body == o.count
  else if isStore o.kind then body.length == 5 && echoes && bodyCount body == o.count
  else if o.kind == kindModifyWord then body.length == 7 && echoes
  else if o.kind == kindProbe then body.length == 6
  else body.length == 0

/-- Whether a REFUSAL body is consistent with the request (Table 4-8). -/
def refusalConsistent (o : Order) (body : List Byte) : Bool :=
  body.length == 2 && byteAt body 0 == o.kind && (1#8 ≤ byteAt body 1 && byteAt body 1 ≤ 8#8)

/-- The body of a run's request (Table 5-3); `data` is the local data of a store kind. -/
def requestBody (o : Order) (data : List Byte) : List Byte :=
  if isFetch o.kind then [o.remoteTable] ++ halfBytes o.remoteIndex ++ halfBytes o.count
  else if isStore o.kind then
    [o.remoteTable] ++ halfBytes o.remoteIndex ++ halfBytes o.count ++ data
  else if o.kind == kindModifyWord then
    [o.remoteTable] ++ halfBytes o.remoteIndex ++ halfBytes o.andMask ++ halfBytes o.orMask
  else []

/-- The reply data of an OK run (R99). -/
def replyDataOf (o : Order) (body : List Byte) : Vector Byte 8 :=
  if o.kind == kindModifyWord then
    #v[byteAt body 3, byteAt body 4, byteAt body 5, byteAt body 6, 0, 0, 0, 0]
  else if o.kind == kindProbe then
    #v[byteAt body 0, byteAt body 1, byteAt body 2, byteAt body 3, byteAt body 4, byteAt body 5, 0, 0]
  else zeroReply

/-! ### Bit runs (R46, R81, R157) -/

/-- Bit `i` of a run of bytes: bit `i mod 8` of byte `⌊i / 8⌋`. -/
def bitAt (l : List Byte) (i : Nat) : Bool := (byteAt l (i / 8)).getLsbD (i % 8)

/-- A byte from its eight bits, bit 0 least significant. -/
def byteOfBits (f : Nat → Bool) : Byte :=
  (List.range 8).foldl (fun acc i => if f i then acc ||| BitVec.twoPow 8 i else acc) 0

/-- The bit run of `count` elements that starts `offset` bits into the whole bytes `raw`; the bits of the last byte
beyond the count are 0 (R90, R117). -/
def extractBits (raw : List Byte) (offset count : Nat) : List Byte :=
  (List.range (bitBytes count)).map fun k =>
    byteOfBits fun b => decide (8 * k + b < count) && bitAt raw (offset + 8 * k + b)

/-- The whole bytes of a span of `len` bytes into which the bit run `data` of `count` elements is placed `offset` bits
from the start; bits outside the range are those of the edge bytes read (R157). -/
def mergeBits (data : List Byte) (offset count len : Nat) (edgeFirst edgeLast : Byte) : List Byte :=
  (List.range len).map fun j =>
    byteOfBits fun b =>
      let i := 8 * j + b
      if offset ≤ i ∧ i < offset + count then bitAt data (i - offset)
      else if j = 0 then edgeFirst.getLsbD b else edgeLast.getLsbD b

end Sys2Proof.Machine
end

