-- ==== Sys2Proof/Machine/Flags.lean ====
section
/-! DEFINITION. Flags and counters: attention causes, INT and DRVEN, the registers as read, saturating counts. -/

namespace Sys2Proof.Machine

/-! ### Attention causes (Table 8-6, Table 12-14) -/

inductive Cause where
  | slotNotify
  | storeNotify
  | absent
  | stopped
  | fault
  deriving DecidableEq, Repr

def Cause.bit : Cause → BitVec 5
  | .slotNotify => 1
  | .storeNotify => 2
  | .absent => 4
  | .stopped => 8
  | .fault => 16

/-- Setting a cause that is already set leaves it set (R151). -/
def Part.setCause (c : Cause) (m : Part) : Part := { m with causes := m.causes ||| c.bit }

/-- Each cause bit written 1 is cleared, each written 0 is left (R152). -/
def clearCauses (causes : BitVec 5) (written : Word) : BitVec 5 := causes &&& ~~~(written.extractLsb' 0 5)

/-- The enable bits of a written ATTENTION (R152). -/
def writtenEnables (written : Word) : BitVec 5 := written.extractLsb' 16 5

/-- INT (R153). -/
def intPin (s : State) : Bool := s.part.causes &&& s.window.enables != 0

/-! ### Registers as read (R164, R187) -/

def readBase (s : State) : Word := s.window.base

def readControl (s : State) : Word := s.window.control.zeroExtend 32

/-- STATUS, Table 12-14. -/
def readStatus (s : State) : Word :=
  (s.part.engine.code.zeroExtend 32) |||
  (s.part.setupError.zeroExtend 32 <<< 8) |||
  (s.part.sweep.presence.code.zeroExtend 32 <<< 16) |||
  (if s.window.refused then 0x00020000 else 0) |||
  (s.part.faultCode.code.zeroExtend 32 <<< 24)

def readAttention (s : State) : Word :=
  s.part.causes.zeroExtend 32 ||| (s.window.enables.zeroExtend 32 <<< 16)

def readFaultAddress (s : State) : Word := s.part.faultAddress

/-! ### Counts -/

/-- A 16-bit saturating count (R31, R178). -/
def satHalf (h : Half) : Half := if h == 0xFFFF then h else h + 1

/-- A 32-bit saturating count (R143). -/
def satWord (w : Word) : Word := if w == 0xFFFFFFFF then w else w + 1

/-! ### Tallies (Table 11-1) -/

inductive Tally where
  | framesAccepted
  | droppedCheck
  | droppedFormat
  | droppedGap
  | droppedBusy
  | foreign
  | replyTimeouts
  | refusalsSent
  | refusalsReceived
  | replays
  | bidsLost
  | droppedUnbid
  deriving DecidableEq, Repr

def Tallies.raise (t : Tallies) : Tally → Tallies
  | .framesAccepted => { t with framesAccepted := satHalf t.framesAccepted }
  | .droppedCheck => { t with droppedCheck := satHalf t.droppedCheck }
  | .droppedFormat => { t with droppedFormat := satHalf t.droppedFormat }
  | .droppedGap => { t with droppedGap := satHalf t.droppedGap }
  | .droppedBusy => { t with droppedBusy := satHalf t.droppedBusy }
  | .foreign => { t with foreign := satHalf t.foreign }
  | .replyTimeouts => { t with replyTimeouts := satHalf t.replyTimeouts }
  | .refusalsSent => { t with refusalsSent := satHalf t.refusalsSent }
  | .refusalsReceived => { t with refusalsReceived := satHalf t.refusalsReceived }
  | .replays => { t with replays := satHalf t.replays }
  | .bidsLost => { t with bidsLost := satHalf t.bidsLost }
  | .droppedUnbid => { t with droppedUnbid := satHalf t.droppedUnbid }

/-! ### States -/

/-- TAKEN, QUEUED or ACTIVE (Table 12-9). -/
def SlotState.partOwned : SlotState → Bool
  | .taken | .queued | .active => true
  | .vacant | .done | .failed | .rejected | .withdrawn => false

/-- RUNNING or STOPPING: the states in which ports, sweeps and slots work (Table 10-1). -/
def EngineState.working : EngineState → Bool
  | .running | .stopping => true
  | .halted | .loading | .stopped | .faulted => false

/-- A run is in progress (R86). -/
def Port.hasRun (p : Port) : Bool := p.run.work.isSome

/-- DRVEN of a port (R72). -/
def Port.drven (p : Port) : Bool := p.tx.isSome

/-- A port is serving (R107). -/
def Activity.serves : Activity → Bool
  | .serving | .turnaround | .replying => true
  | .inactive | .offline | .idle | .preparing | .bidding | .sending | .awaiting | .depositing | .settling
  | .retryWait | .grantedOut => false

end Sys2Proof.Machine
end

