-- ==== Sys2Proof/Machine/Ops.lean ====
section
/-! DEFINITION. The named operations over the part's pieces and over memory: accessors, the exchange write queue and its
waiters, accesses and bursts, transmissions, what is handed to the claim unit and to the slot manager. -/

namespace Sys2Proof.Machine

/-! ### Accessors: one home for every numbered thing -/

def Part.port (m : Part) (p : PortNo) : Port := m.ports.get p

def Part.setPort (m : Part) (p : PortNo) (x : Port) : Part := { m with ports := m.ports.set p x }

def Part.onPort (m : Part) (p : PortNo) (f : Port → Port) : Part := m.setPort p (f (m.port p))

def Part.onPorts (m : Part) (f : Port → Port) : Part := { m with ports := m.ports.map f }

def Part.slot (m : Part) (n : SlotNo) : Slot := m.slots.get n

def Part.setSlot (m : Part) (n : SlotNo) (x : Slot) : Part := { m with slots := m.slots.set n x }

def Part.onSlot (m : Part) (n : SlotNo) (f : Slot → Slot) : Part := m.setSlot n (f (m.slot n))

def Part.queue (m : Part) (p : PortNo) : List SlotNo := m.queues.get p

def Part.setQueue (m : Part) (p : PortNo) (q : List SlotNo) : Part := { m with queues := m.queues.set p q }

def Part.table (m : Part) (t : TableNo) : TableRecord := m.tables.get t

def Part.setTable (m : Part) (t : TableNo) (x : TableRecord) : Part := { m with tables := m.tables.set t x }

def Part.claimList (m : Part) (t : TableNo) : List Claim := m.claims.get t

def Part.setClaimList (m : Part) (t : TableNo) (l : List Claim) : Part := { m with claims := m.claims.set t l }

/-- The adopted setup of a port. -/
def Part.portSetup (m : Part) (p : PortNo) : PortSetup := m.setup.ports.get p

/-- The adopted directory entry of a table (R45). -/
def Part.tableEntry (m : Part) (t : TableNo) : TableEntry := m.setup.tables.get t

def allPorts : List PortNo := [0, 1, 2, 3]

def allSlots : List SlotNo := List.finRange 16

def allTables : List TableNo := List.finRange 8

/-! ### Controller memory as the part's writes leave it -/

/-- The byte the part last wrote at an address; none where it has written nothing (log 2). -/
def Memory.read (mem : List Host.Cell) (a : Nat) : Option Byte := (mem.find? fun c => c.1 == a).map (·.2)

/-- One byte written, addresses kept strictly rising. -/
def Memory.writeByte (mem : List Host.Cell) (a : Nat) (v : Byte) : List Host.Cell :=
  match mem with
  | [] => [(a, v)]
  | c :: rest =>
    if a < c.1 then (a, v) :: c :: rest
    else if a = c.1 then (a, v) :: rest
    else c :: Memory.writeByte rest a v

/-- Consecutive bytes from `a`. -/
def Memory.writeBytes (mem : List Host.Cell) (a : Nat) (bytes : List Byte) : List Host.Cell :=
  match bytes with
  | [] => mem
  | v :: rest => Memory.writeBytes (Memory.writeByte mem a v) (a + 1) rest

/-- A write burst the bus answered with an error, or that was abandoned at event `event`: byte `i` of it lands exactly
where the free value says the bus had taken it (R161, R163). Log 3. -/
def Memory.writeTaken (mem : List Host.Cell) (event a i : Nat) (bytes : List Byte) : List Host.Cell :=
  match bytes with
  | [] => mem
  | v :: rest =>
    Memory.writeTaken (if Config.busTook event i then Memory.writeByte mem (a + i) v else mem) event a (i + 1) rest

/-- The canonical form: addresses strictly rising. -/
def Memory.wf (mem : List Host.Cell) : Bool :=
  match mem with
  | [] => true
  | [_] => true
  | c :: d :: rest => decide (c.1 < d.1) && Memory.wf (d :: rest)

/-! ### The exchange area -/

/-- The bus address of an exchange-area offset, formed from BASE (R165). Beyond the 32-bit space the sheet says no more
than that slots and report blocks begin on 64-byte boundaries (R184): where each block of 256 bytes lies is a free value.
Log 4. -/
def areaAddress (base : Word) (offset : Nat) : Nat :=
  if base.toNat + offset < 2 ^ 32 then base.toNat + offset
  else 256 * (Config.beyondTop ((base.toNat + offset) / 256)).toNat + (base.toNat + offset) % 256

def slotOffset (n : SlotNo) : Nat := 0x400 + 64 * n.val
def tableOffset (t : TableNo) : Nat := 0x100 + 32 * t.val
def reportOffset (p : PortNo) : Nat := 0x200 + 64 * p.val

/-! ### Entries of the exchange write queue (Table 9-4) -/

def partWordPiece (base : Word) (n : SlotNo) (x : Slot) : Piece :=
  ⟨areaAddress base (slotOffset n + 0x24), partWordBytes x⟩

def resultPiece (base : Word) (n : SlotNo) (x : Slot) : Piece :=
  ⟨areaAddress base (slotOffset n + 0x2C), resultBytes x.result⟩

/-- Completion, rejection or adoption of a slot: the result record before the part word (R23). -/
def completionEntry (base : Word) (n : SlotNo) (x : Slot) : Entry := ⟨[resultPiece base n x, partWordPiece base n x]⟩

def partWordEntry (base : Word) (n : SlotNo) (x : Slot) : Entry := ⟨[partWordPiece base n x]⟩

def tableRecordEntry (base : Word) (t : TableNo) (x : TableRecord) : Entry :=
  ⟨[⟨areaAddress base (tableOffset t + 0x10), tableRecordBytes x⟩]⟩

def reportEntry (base : Word) (p : PortNo) (x : Port) : Entry :=
  ⟨[⟨areaAddress base (reportOffset p), reportBytes x.tallies x.fault⟩]⟩

def headerEntry (base : Word) (count : Word) (e : EngineState) (pr : Presence) (overruns : Word) : Entry :=
  ⟨[⟨areaAddress base 0x004, headerBytes count e pr overruns⟩]⟩

/-- Room that no waiting producer has a right to (R160). Log 10. -/
def Part.hasRoom (m : Part) : Bool := m.xq.length + m.waiters.length < Config.queueDepth

def Part.waits (m : Part) (who : Producer) : Bool := m.waiters.any fun w => w.who == who

/-- A producer may queue an entry without waiting. -/
def Part.mayQueue (m : Part) (who : Producer) : Bool := !m.waits who && m.hasRoom

def Part.pushEntry (m : Part) (e : Entry) : Part := { m with xq := m.xq ++ [e] }

/-- The producer begins to wait for room; none when it already waits. -/
def Part.startWait (m : Part) (who : Producer) (since : Nat) : Option Part :=
  if m.waits who then none else some { m with waiters := m.waiters ++ [⟨who, since⟩] }

def Part.endWait (m : Part) (who : Producer) : Part :=
  { m with waiters := m.waiters.filter fun w => w.who != who }

/-- The producer is one that has waited longest, and there is room (R160). -/
def Part.givenRoom (m : Part) (who : Producer) : Bool :=
  decide (m.xq.length < Config.queueDepth) &&
    m.waiters.any fun w => w.who == who && m.waiters.all fun v => decide (w.since ≤ v.since)

/-! ### Accesses and bursts (R154) -/

/-- Bytes from `addr` to the next 64-byte boundary. -/
def toBoundary (addr : Nat) : Nat := Config.burstBytes - addr % Config.burstBytes

/-- The next burst of an access: its first address and its length. -/
def Access.burst : Access → Nat × Nat
  | .read addr left _ => (addr, min left (toBoundary addr))
  | .write addr bytes => (addr, min bytes.length (toBoundary addr))

/-- The bytes a burst of an access writes: none for a read. -/
def Access.burstWrite (a : Access) (len : Nat) : List Byte :=
  match a with
  | .read _ _ _ => []
  | .write _ bytes => bytes.take len

/-- What is left of an access once a burst of `len` bytes has been answered with `data`. -/
def Access.afterBurst (a : Access) (len : Nat) (data : List Byte) : Access :=
  match a with
  | .read addr left got => .read (addr + len) (left - len) (got ++ data.take len)
  | .write addr bytes => .write (addr + len) (bytes.drop len)

def Access.isDone : Access → Bool
  | .read _ left _ => left == 0
  | .write _ bytes => bytes.isEmpty

def Access.bytesRead : Access → List Byte
  | .read _ _ got => got
  | .write _ _ => []

/-- The sweep unit hands over a read of `len` bytes at an exchange-area offset. -/
def Part.sweepRead (m : Part) (base : Word) (offset len : Nat) : Part :=
  { m with sweepAccess := some (.read (areaAddress base offset) len []) }

/-- The port hands over an access, as the given step of its transaction. -/
def Port.startAccess (x : Port) (a : Access) (step : MemStep) : Port := { x with access := some a, memStep := step }

/-! ### Receiver and transmitter of a port (R72, R73) -/

/-- A receiver machine in HUNT, and with another state the one at the entry to COLLECT and in DISCARD. R74 sets the check
register at the entry to COLLECT alone: what it and the length hold in HUNT and DISCARD after a frame has ended or been
dropped is the model's choice (log 40), as is the empty buffer after a complete frame. -/
def Receiver.hunting : Receiver := ⟨.hunt, [], none, 0xFFFF⟩

/-- DRVEN is asserted: the receiver machine is held in HUNT, a frame being collected is dropped, the gap timer stops. -/
def Port.startTx (x : Port) (t : Transmission) : Port :=
  { x with tx := some t, receiver := Receiver.hunting, silence := false }

/-- DRVEN is released: the receiver machine is in HUNT and the silence begins. -/
def Port.endTx (x : Port) : Port := { x with tx := none, receiver := Receiver.hunting, silence := true }

/-- What the port transmits, in the order of the line: the lead character, then the frame proper of the transmit buffer
for a request, and of the answer buffer for a BID, GRANT, reply or refusal (R70, R72, Table 12-15). -/
def Port.txFrame (x : Port) : List Byte :=
  match x.tx with
  | none => []
  | some .request => leadByte :: x.txBuffer
  | some .bid | some .grant | some .answer => leadByte :: x.answerBuffer

/-- The levels of the bits a port transmits, one bit time each, with no idle time between characters (R66, R72). -/
def Part.txLevels (m : Part) (p : PortNo) : List Bool := (m.port p).txFrame.flatMap (charLevels (m.portSetup p).parity)

/-- TXD in bit time `k` since the start of the port's transmission; at the mark level whenever no character is being sent
(R66, R72). -/
def Part.txd (m : Part) (p : PortNo) (k : Nat) : Bool := (m.txLevels p).getD k true

def Port.raise (x : Port) (t : Tally) : Port := { x with tallies := x.tallies.raise t }

def Part.raise (m : Part) (p : PortNo) (t : Tally) : Part := m.onPort p fun x => x.raise t

/-! ### What is handed to other blocks -/

/-- Handed to the claim unit, which takes what reaches it in order (R51). -/
def Part.tellClaimUnit (m : Part) (i : ClaimInput) : Part := { m with inbox := m.inbox ++ [i] }

/-- Handed to the slot manager at this event. -/
def Part.tellSlotManager (m : Part) (k : JobKind) : Part := { m with jobs := m.jobs ++ [⟨k, m.eventNo⟩] }

/-- The entry of a post: it comes before the endings of runs that wait for room, since a post seen meanwhile is taken
first (R19 note 2). Log 15. -/
def Part.tellPost (m : Part) (k : JobKind) : Part := { m with jobs := ⟨k, m.eventNo⟩ :: m.jobs }

/-- The port asks for its claim (Table 3-5). -/
def Part.askClaim (m : Part) (p : PortNo) (t : TableNo) (mode : ClaimMode) (first count : Nat) : Part :=
  m.tellClaimUnit (.arrive p t mode first count)

/-- The port releases its claim (R55). -/
def Part.releaseClaim (m : Part) (p : PortNo) : Part := m.tellClaimUnit (.leave p)

end Sys2Proof.Machine
end

