-- ==== Sys2Proof/Machine/Runs.lean ====
section
/-! DEFINITION. Master transactions (chapter 5) and the bidding side of peer links (chapter 7): runs and attempts. -/

namespace Sys2Proof.Machine

/-! ### Endings (R103 to R105) -/

/-- The fault record of a run (Table 5-6). -/
def Part.fillRunFault (m : Part) (p : PortNo) (kind : FaultKind) (reason : Byte) : Part :=
  match (m.port p).run.work with
  | none => m
  | some w =>
    m.onPort p fun x =>
      { x with
        fault := ⟨kind, BitVec.ofNat 8 w.slot.val, w.order.station, w.order.kind, x.run.tag, reason, m.sweep.count⟩ }

/-- A run ends: its port is IDLE and hands the ending to the slot manager, which takes it once its entry can be queued
(R88, R105). -/
def Part.endRun (m : Part) (p : PortNo) (outcome reason : Byte) : Part :=
  if (m.port p).hasRun then
    (m.onPort p fun x =>
      { x with
        run := { x.run with ending := some ⟨outcome, reason⟩ }
        activity := .idle, memStep := .none }).tellSlotManager (.runEnding p)
  else m

/-- Table 5-5. -/
def RunFailure.ending : RunFailure → RunEnding
  | .noReply => ⟨outcomeNoReply, 0⟩
  | .garbled => ⟨outcomeGarbled, 0⟩
  | .noGrant => ⟨outcomeNoGrant, 0⟩
  | .busy => ⟨outcomeRemoteRefused, reasonBusy⟩

/-! ### The line holdoff (R93, R97, R131, R137) -/

/-- A report may reach the activity machine together with this event, the event taken first: the event is the expiry of
one of the port's timers, and a frame is being collected (R97, R131, R137; log 41). -/
def Port.reportMayCome (x : Port) (event : Nat) : Bool :=
  decide (x.lapsed = some event) && decide (x.receiver.state = .collect)

/-- A BID that the port would send at event `event` has a holdoff left: the line holdoff runs (R93, R129), or a report may
come together with the event, and is then taken with the BID in holdoff (R131); the holdoff ends at its own command
(log 41). -/
def Port.bidHoldoffLeft (x : Port) (event : Nat) : Bool := x.holdoff || x.reportMayCome event

/-- The port's reply timeout, bid timer or grant timer expires at this event. -/
def Part.timerLapses (m : Part) (p : PortNo) : Part := m.onPort p fun x => { x with lapsed := some m.eventNo }

/-! ### Bids (R129) -/

/-- The BID in holdoff is being transmitted. -/
def Port.bidOut (x : Port) : Port := { x with peer := { x.peer with bidPhase := .transmitting } }

/-- A BID of the run is formed, in holdoff; with no holdoff left it ends at once (R129, R131). -/
def Part.sendBid (m : Part) (p : PortNo) (tag : Byte) : Part :=
  let m1 := m.onPort p fun x =>
    { x with
      answerBuffer := frameProper (m.portSetup p).partnerStation kindBid tag []
      peer := { x.peer with bidPhase := .holdoff } }
  if (m.port p).bidHoldoffLeft m.eventNo then m1 else m1.onPort p fun x => (x.startTx .bid).bidOut

/-! ### Attempts (R92, R93) -/

/-- SENDING: the request is transmitted, at once if the line holdoff has passed (R93; log 44). -/
def Part.enterSending (m : Part) (p : PortNo) : Part :=
  let m1 := m.onPort p fun x => { x with activity := .sending }
  if (m.port p).holdoff then m1 else m1.onPort p fun x => x.startTx .request

/-- The request or the BID that waits for the line holdoff is sent. -/
def Part.startWaiting (m : Part) (p : PortNo) : Part :=
  if (m.port p).activity = .sending ∧ (m.port p).tx = none then m.onPort p fun x => x.startTx .request
  else if (m.port p).activity = .bidding ∧ (m.port p).peer.bidPhase = .holdoff then
    m.onPort p fun x => (x.startTx .bid).bidOut
  else m

/-- The turnaround delay after the last GOOD frame passes: a request or a BID that waited for it is sent (R93, R129).
Log 6. -/
def Part.holdoffPasses (m : Part) (p : PortNo) : Part :=
  (m.onPort p fun x => { x with holdoff := false }).startWaiting p

/-- An attempt starts (R92): SENDING on a MASTER port, BIDDING with no bids spent on a PEER port. -/
def Part.startAttempt (m : Part) (p : PortNo) : Part :=
  if (m.port p).hasRun then
    let m1 := m.onPort p fun x =>
      { x with run := { x.run with started := x.run.started + 1, lastFailure := none }, memStep := .none }
    match (m.portSetup p).roleOf with
    | .peer =>
      (m1.onPort p fun x => { x with activity := .bidding, peer := { x.peer with bidsSpent := 0 } }).sendBid p
        (m.port p).run.tag
    | .master | .responder | .off => m1.enterSending p
  else m

/-- RETRY_WAIT, which the port enters at event `event` after the failure `f`, is over at once: its turnaround delay is 0
(R104). Only a bid limit that is spent while a frame is being collected leaves the port in RETRY_WAIT until
RETRY_WAIT_END, so that a GRANT which comes together with the expiry finds it there and is counted foreign (R131; how a
model without a clock joins the two is log 43). -/
def Port.retryWaitOver (x : Port) (turnaround : Byte) (f : RunFailure) (event : Nat) : Bool :=
  turnaround == 0 && !(f == .noGrant && x.reportMayCome event)

/-- An attempt ends with a retryable failure (R103, R104): RETRY_WAIT while attempts are left in RUNNING, with the next
attempt at this event when the wait is over at once, and the end of the run by Table 5-5 in every other case. -/
def Part.attemptFailed (m : Part) (p : PortNo) (f : RunFailure) : Part :=
  let m1 := m.onPort p fun x => { x with run := { x.run with lastFailure := some f } }
  if (m.port p).run.started < (m.port p).run.allowed ∧ m.engine = .running then
    if (m.port p).retryWaitOver (m.portSetup p).turnaround f m.eventNo then m1.startAttempt p
    else m1.onPort p fun x => { x with activity := .retryWait }
  else m1.endRun p f.ending.outcome f.ending.reason

/-- An attempt ends GARBLED (R96). -/
def Part.attemptGarbled (m : Part) (p : PortNo) : Part := (m.fillRunFault p .garbled 0).attemptFailed p .garbled

/-! ### The beginning of a run (R42, R87, R89, R90) -/

/-- The request of the run is placed in the transmit buffer (R89). -/
def Part.formRequest (m : Part) (p : PortNo) (o : Order) (data : List Byte) : Part :=
  m.onPort p fun x => { x with txBuffer := frameProper o.station o.kind x.run.tag (requestBody o data) }

/-- The port of a free dispatch queue's head takes slot `n`: the slot is ACTIVE, the run has its tag, and the port is in
PREPARING; a store kind asks for its SHARED claim, any other kind starts its first attempt at once. -/
def Part.beginRun (m : Part) (p : PortNo) (n : SlotNo) : Part :=
  let o := (m.slot n).order
  let r : Run :=
    { Run.initial with work := some ⟨n, o⟩, tag := (m.port p).tagCounter, allowed := o.retries.toNat + 1 }
  let m1 := (m.onSlot n fun x => { x with state := .active }).onPort p fun x =>
    { x with run := r, tagCounter := x.tagCounter + 1, activity := .preparing, memStep := .none }
  if isStore o.kind then
    m1.askClaim p (tableNo o.localTable) .shared o.localIndex.toNat o.count.toNat
  else (m1.formRequest p o []).startAttempt p

/-- The local data of a store kind has been read (R90): the claim is released, the request formed and the first attempt
started, at one event. -/
def Part.captured (m : Part) (p : PortNo) (raw : List Byte) : Part :=
  match (m.port p).run.work with
  | none => m
  | some w =>
    let first := w.order.localIndex.toNat
    let count := w.order.count.toNat
    let data := if isBitKind w.order.kind then extractBits raw (first % 8) count else raw
    ((m.releaseClaim p).formRequest p w.order data).startAttempt p

/-! ### Answers (R95, R99, R100, R102) -/

/-- An accepted reply (R99). -/
def Part.replyAccepted (m : Part) (p : PortNo) (o : Order) (body : List Byte) : Part :=
  if isFetch o.kind then
    (m.onPort p fun x => { x with activity := .depositing, dataHold := body, memStep := .none }).askClaim p
      (tableNo o.localTable) .exclusive o.localIndex.toNat o.count.toNat
  else
    (m.onPort p fun x => { x with run := { x.run with replyData := replyDataOf o body } }).endRun p outcomeOk 0

/-- A refusal received in AWAITING (R102). -/
def Part.refusalReceived (m : Part) (p : PortNo) (reason : Byte) : Part :=
  let m1 := (m.raise p .refusalsReceived).fillRunFault p .refusalReceived reason
  if reason == reasonBusy then m1.attemptFailed p .busy
  else m1.endRun p outcomeRemoteRefused reason

/-- A GOOD frame in AWAITING that Peer Links does not take (Table 5-4, rows 2 to 6). -/
def Part.answerInAwaiting (m : Part) (p : PortNo) (f : Frame) : Part :=
  match (m.port p).run.work with
  | none => m.raise p .foreign
  | some w =>
    let o := w.order
    if f.station == o.station && f.tag == (m.port p).run.tag && f.kind == replyKind o.kind then
      if replyConsistent o f.body then m.replyAccepted p o f.body else m.attemptGarbled p
    else if f.station == o.station && f.tag == (m.port p).run.tag && f.kind == kindRefusal then
      if refusalConsistent o f.body then m.refusalReceived p (byteAt f.body 1) else m.attemptGarbled p
    else m.raise p .foreign

/-! ### The end of a request's transmission (R93, R94) -/

def Part.requestSent (m : Part) (p : PortNo) : Part :=
  match (m.port p).run.work with
  | none => m
  | some w =>
    let m1 := m.onPort p Port.endTx
    if w.order.station == 255 then
      if (m.portSetup p).turnaround = 0 then m1.endRun p outcomeOk 0
      else m1.onPort p fun x => { x with activity := .settling }
    else m1.onPort p fun x => { x with activity := .awaiting }

/-! ### Grants and yields (R130, R133 to R137) -/

/-- A GRANT's transmission starts. -/
def Port.startGrant (x : Port) : Port :=
  { x.startTx .grant with peer := { x.peer with grantPhase := .transmitting } }

/-- The port grants the BID with this tag (R134, and R137 for a re-grant): GRANTED_OUT, grant pending; with turnaround
delay 0 the GRANT is sent at once. -/
def Part.grant (m : Part) (p : PortNo) (tag : Byte) : Part :=
  let m1 := m.onPort p fun x =>
    { x with
      activity := .grantedOut
      answerBuffer := frameProper (m.portSetup p).partnerStation kindGrant tag []
      peer := { x.peer with grantPhase := .pending, grantedTag := tag } }
  if (m.portSetup p).turnaround = 0 then m1.onPort p Port.startGrant else m1

/-- The port yields the line and grants (R135). -/
def Part.yieldLine (m : Part) (p : PortNo) (tag : Byte) : Part :=
  let m1 := (m.raise p .bidsLost).onPort p fun x =>
    { x with
      run := { x.run with suspended := true }
      peer := { x.peer with bidPhase := .none } }
  m1.grant p tag

/-- A GRANT to the run is accepted (R130). -/
def Part.grantAccepted (m : Part) (p : PortNo) : Part :=
  (m.onPort p fun x => { x with peer := { x.peer with bidPhase := .none } }).enterSending p

/-- A suspended run resumes (R136). -/
def Part.resumeRun (m : Part) (p : PortNo) : Part :=
  (m.onPort p fun x => { x with run := { x.run with suspended := false }, activity := .bidding }).sendBid p
    (m.port p).run.tag

/-- The bid timer expires (R131). -/
def Part.bidUnanswered (m : Part) (p : PortNo) : Part :=
  let spent := (m.port p).peer.bidsSpent + 1
  let m1 := m.onPort p fun x => { x with peer := { x.peer with bidsSpent := spent, bidPhase := .none } }
  if spent < (m.portSetup p).bidLimit.toNat then m1.sendBid p (m.port p).run.tag
  else m1.attemptFailed p .noGrant

end Sys2Proof.Machine
end

