-- ==== Sys2Proof/Machine/Service.lean ====
section
/-! DEFINITION. Responder service (chapter 6): acceptance, replay memory, validation, answers, and the memory accesses of
ports (R117 to R119, R157). -/

namespace Sys2Proof.Machine

/-! ### Answers (R122 to R124) -/

/-- REPLYING: the answer is transmitted (R123). -/
def Port.startAnswer (x : Port) : Port := { x.startTx .answer with activity := .replying }

/-- TURNAROUND holds the answer; it is sent at once when the turnaround delay after the request has passed (R123). -/
def Part.enterTurnaround (m : Part) (p : PortNo) : Part :=
  let m1 := m.onPort p fun x => { x with activity := .turnaround, memStep := .none }
  if (m.port p).answerDelay then m1 else m1.onPort p Port.startAnswer

/-- The turnaround delay after the request being answered passes (R123). -/
def Part.turnaroundEnds (m : Part) (p : PortNo) : Part :=
  let m1 := m.onPort p fun x => { x with answerDelay := false }
  if (m.port p).activity = .turnaround then m1.onPort p Port.startAnswer else m1

/-- A broadcast ends (R124). -/
def Part.endBroadcast (m : Part) (p : PortNo) : Part :=
  m.onPort p fun x => { x with activity := .idle, memStep := .none }

/-- The service has produced a reply (R122), stored in the replay memory (R112); a broadcast only ends, and
its result stays none (log 37). -/
def Part.reply (m : Part) (p : PortNo) (body : List Byte) : Part :=
  let v := (m.port p).service
  if v.broadcast then m.endBroadcast p
  else
    let answer := frameProper v.station (replyKind v.kind) v.tag body
    (m.onPort p fun x =>
      { x with
        answerBuffer := answer
        replay := some ⟨v.kind, v.tag, v.check, answer⟩
        service := { v with result := .reply } }).enterTurnaround p

/-- The service has produced a refusal (R122); a transient one empties the replay memory (R112); a broadcast
only ends, and its result stays none (log 37). -/
def Part.refuse (m : Part) (p : PortNo) (reason : Byte) : Part :=
  let m1 := m.raise p .refusalsSent
  let v := (m.port p).service
  if v.broadcast then m1.endBroadcast p
  else
    let answer := frameProper v.station kindRefusal v.tag [v.kind, reason]
    (m1.onPort p fun x =>
      { x with
        answerBuffer := answer
        replay := if isTransient reason then none else some ⟨v.kind, v.tag, v.check, answer⟩
        service := { v with result := .refusal reason } }).enterTurnaround p

/-- The fault record of a service (Table 6-5). -/
def Part.fillServiceFault (m : Part) (p : PortNo) (kind : FaultKind) (reason : Byte) : Part :=
  m.onPort p fun x =>
    { x with fault := ⟨kind, 0xFF, x.service.station, x.service.kind, x.service.tag, reason, m.sweep.count⟩ }

/-! ### Validation (Table 6-4) -/

/-- The element count of a request's claim: 1 for MODIFY_WORD (R114). -/
def requestCount (kind : Byte) (body : List Byte) : Half := if kind == kindModifyWord then 1 else bodyCount body

/-- Step 3 fails (R114). -/
def noTable (dir : Vector TableEntry 8) (kind : Byte) (table : Byte) : Bool :=
  if table.toNat < 8 then
    let e := dir.get (tableNo table)
    !e.isPresent || e.isBits != isBitKind kind
  else true

/-- Step 4 fails: index plus count, formed without wrap, exceeds the length (R114). -/
def outOfRange (e : TableEntry) (index count : Half) : Bool :=
  decide (e.length.toNat < index.toNat + count.toNat)

/-- Step 5 fails (Table 3-3): access 0 CLOSED, 1 FETCH_ONLY, 2 OPEN. -/
def accessFails (e : TableEntry) (kind : Byte) (sinh : Bool) : Bool :=
  if e.access == 0 then true
  else if isWriting kind then e.access == 1 || sinh
  else false

/-- The first step of Table 6-4 that fails, or none. -/
def validate (dir : Vector TableEntry 8) (presence : Presence) (kind : Byte) (body : List Byte) (sinh : Bool) :
    Option Byte :=
  if !isRequestCode kind then some reasonUnknownKind
  else if !requestConsistent kind body then some reasonBadBody
  else if namesTable kind && noTable dir kind (bodyTable body) then some reasonNoTable
  else if namesTable kind &&
      outOfRange (dir.get (tableNo (bodyTable body))) (bodyIndex body) (requestCount kind body) then
    some reasonOutOfRange
  else if namesTable kind && accessFails (dir.get (tableNo (bodyTable body))) kind sinh then
    some reasonProtected
  else if presence == .absent then some reasonHostAbsent
  else none

/-! ### PROBE and CLEAR_TALLY (R121) -/

/-- Bit `t` is 1 when table `t` is present in the adopted directory (R82). -/
def presentMask (dir : Vector TableEntry 8) : Byte := byteOfBits fun t => (dir.get (Fin.ofNat 8 t)).isPresent

def probeBody (m : Part) (p : PortNo) (sinh : Bool) : List Byte :=
  halfBytes Config.modelCode ++
    [(m.portSetup p).role, (m.portSetup p).ownStation, presentMask m.setup.tables, if sinh then 1 else 0]

/-- Every tally 0 and the fault record empty (R181). -/
def Port.clearTallies (x : Port) : Port := { x with tallies := Tallies.zero, fault := FaultRecord.empty }

/-! ### Acceptance (R108, R111, R113, R116) -/

/-- The mode of a request's claim (Table 3-5). -/
def requestMode (kind : Byte) : ClaimMode := if isFetch kind then .shared else .exclusive

/-- The service record of an accepted request (R108): its body's fields at their initial values. -/
def Service.ofHeader (f : Frame) : Service :=
  { Service.initial with station := f.station, kind := f.kind, tag := f.tag, check := f.check
                         broadcast := f.station == 255 }

/-- The service record once validation has reached the body's fields, in a body it has found consistent (R107, R113). -/
def Service.ofFrame (f : Frame) : Service :=
  if namesTable f.kind && requestConsistent f.kind f.body then
    { Service.ofHeader f with
      table := bodyTable f.body, index := bodyIndex f.body, count := requestCount f.kind f.body
      andMask := if f.kind == kindModifyWord then halfAt f.body 3 else 0
      orMask := if f.kind == kindModifyWord then halfAt f.body 5 else 0 }
  else Service.ofHeader f

/-- A request that has passed validation asks for its claim (R116), or is served at once (R121). -/
def Part.serveValidated (m : Part) (p : PortNo) (f : Frame) (sinh : Bool) : Part :=
  if namesTable f.kind then
    m.askClaim p (tableNo (bodyTable f.body)) (requestMode f.kind) (bodyIndex f.body).toNat
      (requestCount f.kind f.body).toNat
  else if f.kind == kindProbe then m.reply p (probeBody m p sinh)
  else (m.onPort p Port.clearTallies).reply p []

/-- The replay check succeeds (R111). -/
def isReplay (r : Option Replay) (f : Frame) : Bool :=
  match r with
  | none => false
  | some r => r.kind == f.kind && r.tag == f.tag && r.check == f.check

/-- Service begins (R108): the service record is filled, the body is in the data hold (R70), and GRANTED_OUT ends. The
turnaround delay of the answer runs from the end of the request (R123): a broadcast has no answer. -/
def Port.beginService (x : Port) (f : Frame) (turnaround : Byte) : Port :=
  { x with
    activity := .serving
    answerDelay := f.station != 255 && turnaround != 0
    memStep := .none
    peer := { x.peer with grantPhase := .none }
    dataHold := f.body
    service := Service.ofHeader f }

/-- The stored answer of the replay memory becomes the port's answer (R111). -/
def Port.answerReplay (x : Port) : Port :=
  { x with
    answerBuffer := (x.replay.map (·.answer)).getD []
    service := { x.service with result := .replay } }

/-- Validation copies the body's fields into the service record (R113). -/
def Port.copyBody (x : Port) (f : Frame) : Port := { x with service := Service.ofFrame f }

/-- A request is accepted: the replay check of an addressed request, then validation, at the event of its report. -/
def Part.acceptRequest (m : Part) (p : PortNo) (f : Frame) (sinh : Bool) : Part :=
  let m1 := m.onPort p fun x => x.beginService f (m.portSetup p).turnaround
  if f.station != 255 && isReplay (m.port p).replay f then
    ((m1.raise p .replays).onPort p Port.answerReplay).enterTurnaround p
  else
    let m2 := m1.onPort p fun x => x.copyBody f
    match validate m.setup.tables m.sweep.presence f.kind f.body sinh with
    | some reason => (m2.fillServiceFault p .refusalSent reason).refuse p reason
    | none => m2.serveValidated p f sinh

/-! ### Memory accesses of a port (R90, R100, R117 to R119, R157) -/

/-- The table, first element and count that the port's transaction works on. -/
def Part.workRange (m : Part) (p : PortNo) : TableNo × Nat × Nat :=
  match (m.port p).activity with
  | .serving =>
    let v := (m.port p).service
    (tableNo v.table, v.index.toNat, v.count.toNat)
  | _ =>
    match (m.port p).run.work with
    | some w => (tableNo w.order.localTable, w.order.localIndex.toNat, w.order.count.toNat)
    | none => (0, 0, 0)

/-- First byte address and length of the range in memory. -/
def Part.workSpan (m : Part) (p : PortNo) : Nat × Nat :=
  let w := m.workRange p
  (m.tableEntry w.1).span w.2.1 w.2.2

/-- The first edge byte is read: the range does not begin at bit 0 of it, or it is the only byte and the range does not
end at bit 7 (R157). -/
def needsFirstEdge (first count len : Nat) : Bool :=
  first % 8 != 0 || (len == 1 && (first + count) % 8 != 0)

/-- A last edge byte of its own is read. -/
def needsLastEdge (first count len : Nat) : Bool := len != 1 && (first + count) % 8 != 0

/-- The data of a deposit or store, behind table, index and count. -/
def Port.heldData (x : Port) : List Byte := x.dataHold.drop 5

/-- The write of the whole span (R157; for a WORDS table, of the words alone). -/
def Part.startSpanWrite (m : Part) (p : PortNo) : Part :=
  let w := m.workRange p
  let span := m.workSpan p
  m.onPort p fun x =>
    x.startAccess
      (.write span.1
        (if (m.tableEntry w.1).isBits then
          mergeBits x.heldData (w.2.1 % 8) w.2.2 span.2 x.edgeFirst x.edgeLast
        else x.heldData.take span.2))
      .span

/-- After the first edge byte: the last one if it is needed, else the write. -/
def Part.lastEdgeOrWrite (m : Part) (p : PortNo) : Part :=
  let w := m.workRange p
  let span := m.workSpan p
  if (m.tableEntry w.1).isBits && needsLastEdge w.2.1 w.2.2 span.2 then
    m.onPort p fun x => x.startAccess (.read (span.1 + span.2 - 1) 1 []) .edgeLast
  else m.startSpanWrite p

/-- The writes of a deposit or a store begin (R157). -/
def Part.startWrites (m : Part) (p : PortNo) : Part :=
  let w := m.workRange p
  let span := m.workSpan p
  if (m.tableEntry w.1).isBits && needsFirstEdge w.2.1 w.2.2 span.2 then
    m.onPort p fun x => x.startAccess (.read span.1 1 []) .edgeFirst
  else m.lastEdgeOrWrite p

/-- The port's claim is granted: its memory access starts at that event (R90, R100, R116). -/
def Part.claimGranted (m : Part) (p : PortNo) : Part :=
  let span := m.workSpan p
  let startRead (step : MemStep) := m.onPort p fun x => x.startAccess (.read span.1 span.2 []) step
  match (m.port p).activity with
  | .preparing => startRead .read
  | .depositing => m.startWrites p
  | .serving =>
    if isFetch (m.port p).service.kind then startRead .read
    else if (m.port p).service.kind == kindModifyWord then startRead .modifyRead
    else m.startWrites p
  | _ => m

/-- The reply body that echoes table, index and count of the request. -/
def echoBody (v : Service) : List Byte := [v.table] ++ halfBytes v.index ++ halfBytes v.count

/-- A responder fetch has read its range (R117). -/
def Part.fetchDone (m : Part) (p : PortNo) (raw : List Byte) : Part :=
  let v := (m.port p).service
  let data := if isBitKind v.kind then extractBits raw (v.index.toNat % 8) v.count.toNat else raw
  (m.releaseClaim p).reply p (echoBody v ++ data)

/-- The new value of a MODIFY_WORD (R119). -/
def modifiedWord (old andMask orMask : Half) : Half := (old &&& andMask) ||| orMask

/-- The old value has been read: the new value is written (R119). -/
def Part.modifyReadDone (m : Part) (p : PortNo) (raw : List Byte) : Part :=
  let span := m.workSpan p
  m.onPort p fun x =>
    { x.startAccess
        (.write span.1 (halfBytes (modifiedWord (halfAt raw 0) x.service.andMask x.service.orMask))) .modifyWrite with
      oldValue := halfAt raw 0 }

/-- The reply body of a store or modify carried out (Table 4-8). -/
def Port.storedBody (x : Port) : List Byte :=
  if x.service.kind == kindModifyWord then
    [x.service.table] ++ halfBytes x.service.index ++ halfBytes x.oldValue ++
      halfBytes (modifiedWord x.oldValue x.service.andMask x.service.orMask)
  else echoBody x.service

/-- The end of a port's access without error: `raw` is what its reads delivered. -/
def Part.portAccessDone (m : Part) (p : PortNo) (raw : List Byte) : Part :=
  match (m.port p).memStep with
  | .none => m
  | .read =>
    match (m.port p).activity with
    | .serving => m.fetchDone p raw
    | _ => m.captured p raw
  | .edgeFirst => (m.onPort p fun x => { x with edgeFirst := byteAt raw 0 }).lastEdgeOrWrite p
  | .edgeLast => (m.onPort p fun x => { x with edgeLast := byteAt raw 0 }).startSpanWrite p
  | .span =>
    match (m.port p).activity with
    | .serving => (m.onPort p fun x => { x with memStep := .none }).tellClaimUnit (.stored p)
    | _ => (m.releaseClaim p).endRun p outcomeOk 0
  | .modifyRead => m.modifyReadDone p raw
  | .modifyWrite => (m.onPort p fun x => { x with memStep := .none }).tellClaimUnit (.stored p)

/-- A port's access ends in a bus error (Table 9-5): the claim is released, and the transaction ends. -/
def Part.portBusError (m : Part) (p : PortNo) : Part :=
  let m1 := (m.onPort p fun x => { x with access := none, memStep := .none }).releaseClaim p
  match (m.port p).activity with
  | .serving => (m1.fillServiceFault p .busError reasonHostFault).refuse p reasonHostFault
  | _ => (m1.fillRunFault p .busError 0).endRun p outcomeTableFault 0

/-- A port's claim has been removed at its wait limit (Table 3-7). -/
def Part.claimTimedOut (m : Part) (p : PortNo) : Part :=
  match (m.port p).activity with
  | .serving => (m.fillServiceFault p .claimTimeout reasonBusy).refuse p reasonBusy
  | _ => (m.fillRunFault p .claimTimeout 0).endRun p outcomeClaimTimeout 0

end Sys2Proof.Machine
end

