-- ==== Sys2Proof/Machine/Line.lean ====
section
/-! DEFINITION. The receiver machine (chapter 4) and what the activity machine of each role makes of its reports
(R95, R96, R98, R108, R109, R130, R132, R133, R137 to R139). -/

namespace Sys2Proof.Machine

/-- A report of the receiver machine (R79). -/
inductive Report where
  | good (f : Frame)
  | badCheck
  | spoiled
  | abandoned
  deriving DecidableEq, Repr

/-! ### The receiver machine (R73 to R78) -/

/-- The longest body a length byte may give (R76). -/
def maxBody : Nat := 248

/-- A good character in COLLECT (R75): the receiver after it, and the report it may make. -/
def Receiver.collectGood (r : Receiver) (v : Byte) : Receiver × Option Report :=
  let at_ := r.buffer.length
  let buffer := r.buffer ++ [v]
  if at_ = 3 ∧ maxBody < v.toNat then ({ Receiver.hunting with state := .discard }, some .spoiled)
  else
    let bodyLength := if at_ = 3 then some v.toNat else r.bodyLength
    let covered : Bool := match r.bodyLength with
      | some n => decide (at_ < 4 + n)
      | none => true
    let check := if covered then crcByte r.check v else r.check
    match bodyLength with
    | some n =>
      if buffer.length = 6 + n then
        (Receiver.hunting,
          some (if halfAt buffer (4 + n) == check then .good (Frame.ofBuffer buffer n) else .badCheck))
      else ({ r with buffer := buffer, bodyLength := bodyLength, check := check }, none)
    | none => ({ r with buffer := buffer, bodyLength := bodyLength, check := check }, none)

/-- A character arrival at the receiver machine (Table 4-4). -/
def Receiver.arrive (r : Receiver) (v : Byte) (st : CharStatus) : Receiver × Option Report :=
  match r.state with
  | .inactive => (r, none)
  | .hunt => if st = .good ∧ v = leadByte then ({ Receiver.hunting with state := .collect }, none) else (r, none)
  | .collect =>
    if st = .good then r.collectGood v
    else ({ Receiver.hunting with state := .discard }, some .spoiled)
  | .discard => (r, none)

/-! ### GOOD frames -/

/-- The frame carries the port's own station, or 255 (R108). -/
def addressedTo (own : Byte) (f : Frame) : Bool := f.station == own || f.station == 255

/-- A partner BID (R132). -/
def isPartnerBid (own : Byte) (f : Frame) : Bool := f.kind == kindBid && f.station == own && f.body.isEmpty

/-- A ready port's request: served, or dropped as a broadcast of a kind that cannot be broadcast (Table 6-3). -/
def Part.requestAtReady (m : Part) (p : PortNo) (f : Frame) (sinh : Bool) : Part :=
  if f.station == 255 && !isBroadcastable f.kind then m.raise p .droppedFormat
  else m.acceptRequest p f sinh

/-- A MASTER port (R95, R98). -/
def Part.goodAtMaster (m : Part) (p : PortNo) (f : Frame) : Part :=
  if (m.port p).activity = .awaiting then m.answerInAwaiting p f else m.raise p .foreign

/-- A RESPONDER port (R108, R109). -/
def Part.goodAtResponder (m : Part) (p : PortNo) (f : Frame) (sinh : Bool) : Part :=
  if isRequestFrame f.kind && addressedTo (m.portSetup p).ownStation f then
    if (m.port p).activity.serves ∨ m.engine = .stopping then m.raise p .droppedBusy
    else m.requestAtReady p f sinh
  else m.raise p .foreign

/-- A partner BID in RUNNING (Table 7-3). -/
def Part.partnerBid (m : Part) (p : PortNo) (tag : Byte) : Part :=
  match (m.port p).activity with
  | .idle => m.grant p tag
  | .grantedOut => m.grant p tag
  | .bidding =>
    if (m.portSetup p).partnerStation.toNat < (m.portSetup p).ownStation.toNat then m.yieldLine p tag else m
  | _ => m

/-- A request at a PEER port (R109, R137, R138, R139). -/
def Part.requestAtPeer (m : Part) (p : PortNo) (f : Frame) (sinh : Bool) : Part :=
  if (m.port p).activity.serves ∨ m.engine = .stopping then m.raise p .droppedBusy
  else if (m.port p).activity = .grantedOut ∧ (m.port p).peer.grantPhase = .granted then m.requestAtReady p f sinh
  else m.raise p .droppedUnbid

/-- A GRANT to the run of a port in BIDDING (R130). -/
def Part.isGrantToRun (m : Part) (p : PortNo) (f : Frame) : Bool :=
  decide ((m.port p).activity = .bidding) && f.kind == kindGrant && f.station == (m.portSetup p).ownStation &&
    f.body.isEmpty && (m.port p).hasRun && f.tag == (m.port p).run.tag

/-- A frame a PEER port takes as a request; in AWAITING a frame of unknown kind is none (Table 5-4 note 1; log 17). -/
def Part.isPeerRequest (m : Part) (p : PortNo) (f : Frame) : Bool :=
  isRequestFrame f.kind && addressedTo (m.portSetup p).ownStation f &&
    (isRequestCode f.kind || decide ((m.port p).activity ≠ .awaiting))

/-- A PEER port (R95, R130, R132, R137 to R139). -/
def Part.goodAtPeer (m : Part) (p : PortNo) (f : Frame) (sinh : Bool) : Part :=
  if isPartnerBid (m.portSetup p).ownStation f then
    if m.engine = .stopping then m else m.partnerBid p f.tag
  else if m.isGrantToRun p f then m.grantAccepted p
  else if m.isPeerRequest p f then m.requestAtPeer p f sinh
  else if (m.port p).activity = .awaiting then m.answerInAwaiting p f
  else m.raise p .foreign

/-- A GOOD report (R79): frames_accepted, the line holdoff from the end of this frame (R93), and then what the port's
role makes of the frame. -/
def Part.goodReport (m : Part) (p : PortNo) (f : Frame) (sinh : Bool) : Part :=
  let m1 := (m.raise p .framesAccepted).onPort p fun x => { x with holdoff := (m.portSetup p).turnaround != 0 }
  match (m.portSetup p).roleOf with
  | .off => m1
  | .master => m1.goodAtMaster p f
  | .responder => m1.goodAtResponder p f sinh
  | .peer => m1.goodAtPeer p f sinh

/-- A BAD_CHECK, SPOILED or ABANDONED report (R79, R96): its tally, and the end of an attempt in AWAITING. -/
def Part.unreadable (m : Part) (p : PortNo) (t : Tally) : Part :=
  let m1 := m.raise p t
  if (m.port p).activity = .awaiting then m1.attemptGarbled p else m1

def Part.takeReport (m : Part) (p : PortNo) (r : Report) (sinh : Bool) : Part :=
  match r with
  | .good f => m.goodReport p f sinh
  | .badCheck => m.unreadable p .droppedCheck
  | .spoiled => m.unreadable p .droppedFormat
  | .abandoned => m.unreadable p .droppedGap

/-- The status of a character arriving at a port (R68): the start edge of the next character may already be confirmed. -/
def Part.arrivalStatus (m : Part) (p : PortNo) (levels : Levels) (edge : Bool) : CharStatus :=
  charStatus (m.portSetup p).parity levels (edge || decide (1 < (m.port p).underWay))

/-- A character has arrived: the silence begins at its end unless the next character is already under way (R69). -/
def Port.arrived (x : Port) : Port := { x with underWay := x.underWay - 1, silence := decide (x.underWay = 1) }

/-- A character arrives at a port (R68, R72, R73). With its start bit at mark its start edge was ignored, a character
under way before the receiver machine became active is ignored, and so is every character at an inactive or a held
receiver machine; any other is taken. -/
def Part.character (m : Part) (p : PortNo) (levels : Levels) (edge sinh : Bool) : Part :=
  let x := m.port p
  if !startConfirmed levels ∨ x.receiver.state = .inactive ∨ x.underWay = 0 then m
  else if x.drven then m.setPort p { x with underWay := x.underWay - 1 }
  else
    let r := x.receiver.arrive (charValue levels) (m.arrivalStatus p levels edge)
    let m1 := m.setPort p { x.arrived with receiver := r.1 }
    match r.2 with
    | none => m1
    | some rep => m1.takeReport p rep sinh

/-- The silence exceeds the gap limit (R77). -/
def Part.gapPassed (m : Part) (p : PortNo) : Part :=
  let x := m.port p
  if x.receiver.state = .collect ∧ x.silence = true ∧ x.drven = false then
    (m.setPort p { x with receiver := Receiver.hunting }).takeReport p .abandoned false
  else m

/-- The silence reaches the gap limit (R78). -/
def Part.gapComplete (m : Part) (p : PortNo) : Part :=
  let x := m.port p
  if x.receiver.state = .discard ∧ x.silence = true then m.setPort p { x with receiver := Receiver.hunting } else m

/-- A confirmed start edge: a character is under way, and the silence ends (R69). While the port transmits the gap timer
is stopped (R72). -/
def Part.startEdge (m : Part) (p : PortNo) : Part :=
  let x := m.port p
  if x.receiver.state = .inactive then m else m.setPort p { x with underWay := x.underWay + 1, silence := false }

end Sys2Proof.Machine
end

