-- ==== Sys2Proof/Machine/Claims.lean ====
section
/-! DEFINITION. The claim unit (chapter 3): the grant rule, arrivals, leaves, wait-limit expiries, holds, and the table
records. -/

namespace Sys2Proof.Machine

/-! ### The grant rule (R53, R54) -/

/-- Two half-open ranges share a place. -/
def rangesMeet (a1 a2 b1 b2 : Nat) : Bool := decide (a1 < b2) && decide (b1 < a2)

/-- The ranges of two claims overlap: in elements for a WORDS table, in whole bytes for a BITS table (R53). -/
def claimsOverlap (bits : Bool) (a b : Claim) : Bool :=
  if bits then
    rangesMeet (a.first / 8) ((a.first + a.count - 1) / 8 + 1) (b.first / 8) ((b.first + b.count - 1) / 8 + 1)
  else rangesMeet a.first (a.first + a.count) b.first (b.first + b.count)

/-- R53. -/
def conflict (bits : Bool) (a b : Claim) : Bool :=
  a.mode == .hold || b.mode == .hold ||
    (claimsOverlap bits a b && (a.mode == .exclusive || b.mode == .exclusive))

/-- A claim may be granted behind the claims `before` it and ahead of the claims `after` it: it conflicts with no claim
before it, WAITING or GRANTED, and with no GRANTED claim after it. -/
def grantable (bits : Bool) (before : List Claim) (c : Claim) (after : List Claim) : Bool :=
  before.all (fun d => !conflict bits c d) && after.all fun d => !d.granted || !conflict bits c d

/-- The pass of R54 from the head of the list: `done` has been passed. -/
def grantPass (bits : Bool) (done rest : List Claim) : List Claim :=
  match rest with
  | [] => done
  | c :: after =>
    if c.granted || grantable bits done c after then grantPass bits (done ++ [{ c with granted := true }]) after
    else grantPass bits (done ++ [c]) after

/-- The claimants granted in a pass: GRANTED after it and not before. -/
def newlyGranted (old new : List Claim) : List Claimant :=
  (new.filter fun c => c.granted && !(old.any fun d => d.claimant == c.claimant && d.granted)).map (·.claimant)

/-- The list of a table after a claimant's claim has left it (R54). -/
def afterLeave (bits : Bool) (l : List Claim) (who : Claimant) : List Claim :=
  grantPass bits [] (l.filter fun c => c.claimant != who)

/-- The claims granted when a claimant's claim leaves. -/
def grantedByLeave (bits : Bool) (l : List Claim) (who : Claimant) : List Claimant :=
  newlyGranted (l.filter fun c => c.claimant != who) (afterLeave bits l who)

/-- The table in whose list a port's claim stands. -/
def Part.claimTable (m : Part) (p : PortNo) : Option TableNo :=
  allTables.find? fun t => (m.claimList t).any fun c => c.claimant == .port p

/-- A claim of the port is WAITING: its wait limit runs (R56). -/
def Part.waitLimitRuns (m : Part) (p : PortNo) : Bool :=
  allTables.any fun t => (m.claimList t).any fun c => c.claimant == .port p && !c.granted

def Part.holdClaimed (m : Part) (t : TableNo) : Bool := (m.claimList t).any fun c => c.claimant == .hold

/-! ### What the claim unit does with each input -/

/-- A claimant is told of its grant; a hold becomes HELD (R54, R60). -/
def Part.tellGranted (m : Part) (t : TableNo) (who : Claimant) : Part :=
  match who with
  | .port p => m.claimGranted p
  | .hold => m.setTable t { m.table t with holdState := .held }

def Part.tellAllGranted (m : Part) (t : TableNo) (l : List Claimant) : Part :=
  l.foldl (fun m who => m.tellGranted t who) m

/-- A claim arrives (R51, R53). -/
def Part.claimArrives (m : Part) (t : TableNo) (c : Claim) : Part :=
  if grantable (m.tableEntry t).isBits (m.claimList t) c [] then
    (m.setClaimList t (m.claimList t ++ [{ c with granted := true }])).tellGranted t c.claimant
  else m.setClaimList t (m.claimList t ++ [{ c with granted := false }])

/-- A claim leaves, and the grant rule is applied to the claims that remain (R54). -/
def Part.claimLeaves (m : Part) (t : TableNo) (who : Claimant) : Part :=
  (m.setClaimList t (afterLeave (m.tableEntry t).isBits (m.claimList t) who)).tellAllGranted t
    (grantedByLeave (m.tableEntry t).isBits (m.claimList t) who)

/-- The table record entry of R59. -/
def Part.queueTableRecord (m : Part) (base : Word) (t : TableNo) : Part :=
  m.pushEntry (tableRecordEntry base t (m.table t))

/-- The leave of a port's claim grants a pending hold, and so queues a table record entry (R60). -/
def Part.leaveGrantsHold (m : Part) (p : PortNo) : Bool :=
  match m.claimTable p with
  | none => false
  | some t => (grantedByLeave (m.tableEntry t).isBits (m.claimList t) (.port p)).contains .hold

/-- A port's claim leaves, with the entry of a hold that it grants. -/
def Part.portLeaves (m : Part) (base : Word) (p : PortNo) : Part :=
  match m.claimTable p with
  | none => m
  | some t =>
    let m1 := m.claimLeaves t (.port p)
    if m.leaveGrantsHold p then m1.queueTableRecord base t else m1

/-- A wait-limit expiry (R56): the claim, if it still waits, is removed and its port told. -/
def Part.claimExpires (m : Part) (base : Word) (p : PortNo) : Part :=
  if m.waitLimitRuns p then (m.portLeaves base p).claimTimedOut p else m

/-- A responder store or modify is applied (R63, R65): the table record is updated, its entry queued and STORE_NOTIFY set
if the table's notify flag is set. -/
def Part.recordStore (m : Part) (base : Word) (p : PortNo) : Part :=
  let v := (m.port p).service
  let t := tableNo v.table
  let x := m.table t
  let m1 := (m.setTable t
    { x with
      storeTally := x.storeTally + 1
      lastStore := ⟨BitVec.ofNat 8 p.val, v.kind, v.tag, v.index, v.count⟩ }).queueTableRecord base t
  if (m.tableEntry t).notifies then m1.setCause .storeNotify else m1

/-- After its entry is queued the port releases its claim and forms its reply at the same event (R118); whether the
release or what the wait has held back reaches the claim unit first is open. Log 5. -/
def Part.storeApplied (m : Part) (base : Word) (p : PortNo) : Part :=
  let m1 := m.recordStore base p
  let m2 : Part :=
    match m1.inbox with
    | [] => { m1 with inbox := [.leave p] }
    | i :: rest =>
      if Config.leaveFirst m1.eventNo p.val then { m1 with inbox := .leave p :: i :: rest }
      else { m1 with inbox := i :: rest ++ [.leave p] }
  m2.reply p (m2.port p).storedBody

/-- The claim of a hold, on the whole table (Table 3-5). -/
def Part.holdClaim (m : Part) (t : TableNo) : Claim :=
  ⟨.hold, .hold, 0, (m.tableEntry t).length.toNat, false⟩

/-- A changed hold post (R60, R61): 1 is HELD, any other value FREE. -/
def Part.takeHoldPost (m : Part) (base : Word) (t : TableNo) (wanted : Byte) (post : Half) : Part :=
  let m1 := m.setTable t { m.table t with seenHold := post }
  let m2 :=
    if wanted == 1 then
      if m1.holdClaimed t then m1
      else (m1.setTable t { m1.table t with holdState := .pending }).claimArrives t (m1.holdClaim t)
    else if m1.holdClaimed t then (m1.setTable t { m1.table t with holdState := .free }).claimLeaves t .hold
    else m1.setTable t { m1.table t with holdState := .free }
  m2.queueTableRecord base t

/-- The input queues an entry. -/
def Part.inputQueues (m : Part) (i : ClaimInput) : Bool :=
  match i with
  | .arrive _ _ _ _ _ => false
  | .leave p => m.leaveGrantsHold p
  | .expire p => m.waitLimitRuns p && m.leaveGrantsHold p
  | .stored _ => true
  | .holdPost t _ post => (m.table t).seenHold != post

/-- An input taken, whose entry, if it queues one, there is room for. -/
def Part.doInput (m : Part) (base : Word) (i : ClaimInput) : Part :=
  match i with
  | .arrive p t mode first count => m.claimArrives t ⟨.port p, mode, first, count, false⟩
  | .leave p => m.portLeaves base p
  | .expire p => m.claimExpires base p
  | .stored p => m.storeApplied base p
  | .holdPost t wanted post => if (m.table t).seenHold == post then m else m.takeHoldPost base t wanted post

/-- The claim unit takes the next input, or begins to wait for room; none when there is none or it waits (R59). Its wait
counts from the event at which the input came to the front (R160; log 38). -/
def Part.claimStep (m : Part) (base : Word) : Option Part :=
  match m.inbox with
  | [] => none
  | i :: rest =>
    if m.waits .claimUnit then none
    else if m.inputQueues i && !m.hasRoom then m.startWait .claimUnit m.eventNo
    else some (({ m with inbox := rest } : Part).doInput base i)

/-- A wait limit expires (R56): it reaches the claim unit if the port's claim waits. -/
def Part.claimLimitPassed (m : Part) (p : PortNo) : Part :=
  if m.waitLimitRuns p then m.tellClaimUnit (.expire p) else m

end Sys2Proof.Machine
end

