-- ==== Sys2Proof/Machine/Slots.lean ====
section
/-! DEFINITION. The slot manager and the dispatch queues (chapters 1 and 2). -/

namespace Sys2Proof.Machine

/-! ### Classes and followers (R27, R28, R33) -/

/-- Periodic, or a follower with its repeat flag set (R22, R28). -/
def Slot.repeating (x : Slot) : Bool := x.order.isPeriodic || (x.order.isFollower && x.repeatFlag)

/-- The slot is part-owned and its cached order follows slot `n` (R33). -/
def Slot.follows (x : Slot) (n : SlotNo) : Bool :=
  x.state.partOwned && x.order.follows == BitVec.ofNat 8 n.val

/-- The followers of a slot in ascending slot order (R35). -/
def Part.followers (m : Part) (n : SlotNo) : List SlotNo := allSlots.filter fun k => (m.slot k).follows n

/-! ### Dispatch queues (R40, R41) -/

/-- Behind the last urgent entry, or at the head if there is none (R40). -/
def insertUrgent (urgent : SlotNo → Bool) (n : SlotNo) (q : List SlotNo) : List SlotNo :=
  let normal := (q.reverse.takeWhile fun k => !urgent k).length
  q.take (q.length - normal) ++ n :: q.drop (q.length - normal)

/-- The placement of a slot that a trigger has found TAKEN (R40). -/
def Part.placeTriggered (m : Part) (n : SlotNo) : Part :=
  let p := (m.slot n).order.portNo
  if (m.slot n).order.urgent then
    m.setQueue p (insertUrgent (fun k => (m.slot k).order.urgent) n (m.queue p))
  else m.setQueue p (m.queue p ++ [n])

/-- The slot leaves its dispatch queue, wherever it stands (R15). -/
def Part.unqueue (m : Part) (n : SlotNo) : Part :=
  let p := (m.slot n).order.portNo
  m.setQueue p ((m.queue p).filter fun k => k != n)

/-! ### Triggers (R31) -/

/-- Table 2-2. -/
def Part.trigger (m : Part) (n : SlotNo) : Part :=
  match (m.slot n).state with
  | .taken => (m.onSlot n fun x => { x with state := .queued }).placeTriggered n
  | .queued | .active =>
    if (m.slot n).owed then m.onSlot n fun x => { x with overruns := satHalf x.overruns }
    else m.onSlot n fun x => { x with owed := true }
  | .vacant | .done | .failed | .rejected | .withdrawn => m

/-- A period expiry taken by the slot manager: a trigger, unless it is suppressed (R30, R39). -/
def Part.takeExpiry (m : Part) (n : SlotNo) : Part :=
  if m.engine = .running ∧ m.sweep.presence = .present ∧ (m.slot n).periodTimer = true then m.trigger n else m

/-! ### Completions (R20 to R24) -/

/-- Why a CHAIN_BROKEN completion is made (Table 1-8, rows 5 and 6). -/
inductive ChainBreak where
  | none
  | predecessorFailed
  | predecessorLeft
  deriving DecidableEq, Repr

/-- What a completion records (Table 1-7). -/
structure Completion where
  outcome : Byte
  reason : Byte
  attempts : Byte
  tag : Byte
  replyData : Vector Byte 8
  chain : ChainBreak
  deriving DecidableEq, Repr

/-- Table 1-8; the first row that applies. -/
def nextState (x : Slot) (c : Completion) : SlotState :=
  if x.withdrawMark then .withdrawn
  else if c.outcome == outcomeStopped then .failed
  else if x.brokenMark then (if c.outcome == outcomeOk then .done else .failed)
  else match c.chain with
    | .predecessorLeft => .failed
    | .predecessorFailed => if x.repeating then .taken else .failed
    | .none =>
      if x.repeating then (if x.owed then .queued else .taken)
      else if c.outcome == outcomeOk then .done
      else .failed

/-- The broken mark is cleared by the rows that it or the withdraw mark decides (R37, Table 1-8). -/
def clearsBroken (x : Slot) (c : Completion) : Bool := x.withdrawMark || c.outcome != outcomeStopped

/-- The slot after a completion, with its result record (R20 to R22, R32). -/
def completedSlot (x : Slot) (c : Completion) (sweepCount : Word) : Slot :=
  let next := nextState x c
  { x with
    state := next
    completions := x.completions + 1
    withdrawMark := false
    owed := false
    overruns := 0
    brokenMark := x.brokenMark && !clearsBroken x c
    result := ⟨c.outcome, c.reason, c.attempts, c.tag, x.overruns, sweepCount, c.replyData⟩
    periodTimer := x.periodTimer && next.partOwned }

/-- A slot that QUEUED again stands at the tail (R41); any other leaves its queue. -/
def Part.requeue (m : Part) (n : SlotNo) : Part :=
  let m1 := m.unqueue n
  let p := (m.slot n).order.portNo
  if (m.slot n).state = .queued then m1.setQueue p (m1.queue p ++ [n]) else m1

/-- SLOT_NOTIFY when the cached order has notify set (R24). -/
def Part.notifySlot (m : Part) (notify : Bool) : Part := if notify then m.setCause .slotNotify else m

/-- A completion, whose entry there is room for: the slot moves on, and the result record and the part word are queued in
one entry (R20, R23). -/
def Part.complete (m : Part) (base : Word) (n : SlotNo) (c : Completion) : Part :=
  let m1 := (m.onSlot n fun x => completedSlot x c m.sweep.count).requeue n
  (m1.pushEntry (completionEntry base n (m1.slot n))).notifySlot (m1.slot n).order.notify

/-- A QUEUED or ACTIVE slot gets the broken mark (R37). -/
def Slot.marked (x : Slot) : Slot :=
  match x.state with
  | .queued | .active => { x with brokenMark := true }
  | .vacant | .taken | .done | .failed | .rejected | .withdrawn => x

/-- A predecessor has left service: its followers in QUEUED and ACTIVE get the broken mark at that event (R36, R37). -/
def Part.markFollowers (m : Part) (n : SlotNo) : Part :=
  (m.followers n).foldl (fun m k => m.onSlot k Slot.marked) m

/-- The delivery of a completion to the followers (R33 to R36): triggers, and the broken marks of a predecessor that left
service, at once; failed completions, of both causes, as tasks of the delivery tree, ahead of what the tree still
holds. -/
def Part.deliver (m : Part) (n : SlotNo) (ok left : Bool) : Part :=
  let fs := m.followers n
  let m1 := if ok then fs.foldl Part.trigger m else m
  let m2 := if left then m1.markFollowers n else m1
  { m2 with
    tree := (if ok then [] else fs.map .failed) ++ (if left then fs.map .left else []) ++ m2.tree }

/-- A completion and its delivery. -/
def Part.completeAndDeliver (m : Part) (base : Word) (n : SlotNo) (c : Completion) : Part :=
  let m1 := m.complete base n c
  m1.deliver n (c.outcome == outcomeOk) ((m1.slot n).state == .withdrawn)

/-! ### The delivery tree (R34 to R37) -/

def chainBroken (why : ChainBreak) : Completion := ⟨outcomeChainBroken, 0, 0, 0, zeroReply, why⟩

/-- A slot's entry of a post is queued, with the slot's values at this moment (R5, R23). -/
def Part.queuePostWord (m : Part) (base : Word) (n : SlotNo) : Part :=
  m.pushEntry (partWordEntry base n (m.slot n))

/-- The task queues an entry: it is a part word, or completes its follower, which is TAKEN (Tables 2-3 and 2-4). -/
def Part.taskQueues (m : Part) (t : TreeTask) : Bool :=
  match t with
  | .word _ => true
  | .failed n | .left n => (m.slot n).state == .taken

/-- One task of the tree, whose entry, if it queues one, there is room for. A follower that is QUEUED or ACTIVE goes on: a
failed completion has no effect on it, and it has been marked when its predecessor left (Tables 2-3 and 2-4). -/
def Part.doTask (m : Part) (base : Word) (t : TreeTask) : Part :=
  match t with
  | .word n => m.queuePostWord base n
  | .failed n =>
    if (m.slot n).state = .taken then m.completeAndDeliver base n (chainBroken .predecessorFailed) else m
  | .left n =>
    if (m.slot n).state = .taken then m.completeAndDeliver base n (chainBroken .predecessorLeft) else m

/-- The tree's next task is done without waiting, or the slot manager begins to wait for room; none when the tree is
done or already waits (R35). -/
def Part.treeStep (m : Part) (base : Word) : Option Part :=
  match m.tree with
  | [] => none
  | t :: rest =>
    if m.taskQueues t && !m.mayQueue .slotManager then m.startWait .slotManager m.eventNo
    else some (({ m with tree := rest } : Part).doTask base t)

/-! ### Run endings (R20, R25, R105) -/

/-- What the ending of a run gives its slot (Table 1-7). -/
def Run.completion (r : Run) (e : RunEnding) : Completion :=
  ⟨e.outcome, e.reason, BitVec.ofNat 8 r.started, r.tag, if e.outcome == outcomeOk then r.replyData else zeroReply, .none⟩

/-- The slot manager takes the ending of a port's run as a completion; the run is no longer in progress, and its record
holds the initial values again (log 23). The completion is delivered in RUNNING and not in STOPPING (R25). -/
def Part.takeEnding (m : Part) (base : Word) (p : PortNo) : Part :=
  match (m.port p).run.work, (m.port p).run.ending with
  | some w, some e =>
    let c := (m.port p).run.completion e
    let m1 := m.onPort p fun x => { x with run := Run.initial }
    if m.engine = .running then m1.completeAndDeliver base w.slot c else m1.complete base w.slot c
  | _, _ => m

/-! ### Posts (R4 to R18) -/

/-- The state that the take rules reach (R13): QUEUED for a plain one-shot or periodic order, which is triggered at its
take (R29), and TAKEN for a follower. -/
def Order.stateAtTake (o : Order) : SlotState := if o.isFollower then .taken else .queued

/-- The entry of a take is queued. It shows the state that the take rules reached (R13, R29), with room at once and after
a wait, in which the port may have taken the slot; R5 has the values be those at this moment, and the choice between the
rules is the model's (log 42). -/
def Part.queueTakeWord (m : Part) (base : Word) (n : SlotNo) : Part :=
  let x := m.slot n
  m.pushEntry (partWordEntry base n { x with state := x.order.stateAtTake })

/-- A rejection's entry is queued (R12). -/
def Part.queueRejection (m : Part) (base : Word) (n : SlotNo) (notify : Bool) : Part :=
  (m.pushEntry (completionEntry base n (m.slot n))).notifySlot notify

/-- A job that queues an entry. -/
def JobKind.queues : JobKind → Bool
  | .runEnding _ | .postWord _ | .takeWord _ | .rejection _ _ => true
  | .expiry _ => false

/-- A job taken, whose entry, if it queues one, there is room for. -/
def Part.doJob (m : Part) (base : Word) (k : JobKind) : Part :=
  match k with
  | .runEnding p => m.takeEnding base p
  | .postWord n => m.queuePostWord base n
  | .takeWord n => m.queueTakeWord base n
  | .rejection n notify => m.queueRejection base n notify
  | .expiry n => m.takeExpiry n

/-- The first job that queues an entry, and the jobs without it. -/
def firstQueuing (l : List Job) : Option (Job × List Job) :=
  match l with
  | [] => none
  | j :: rest =>
    if j.kind.queues then some (j, rest)
    else match firstQueuing rest with
      | none => none
      | some (k, others) => some (k, j :: others)

/-- The first expiry, and the jobs without it. -/
def firstExpiry (l : List Job) : Option (SlotNo × List Job) :=
  match l with
  | [] => none
  | j :: rest =>
    match j.kind with
    | .expiry n => some (n, rest)
    | _ => match firstExpiry rest with
      | none => none
      | some (n, others) => some (n, j :: others)

/-- With no delivery tree in progress the slot manager takes its jobs in order; while an entry waits for room, the
expiries behind it are taken all the same (Table 2-2 note 2; log 12). Its wait for an entry's room counts from the event
at which the job reached it (R160; log 38). Completions and expiries that reach it while the order record of an ARM post
is being read are taken at once, ahead of the check and the take of that post (R4, R19, R144 do not say; log 39). -/
def Part.jobStep (m : Part) (base : Word) : Option Part :=
  match m.tree with
  | _ :: _ => none
  | [] =>
    match m.jobs with
    | [] => none
    | j :: rest =>
      if !j.kind.queues || m.mayQueue .slotManager then some (({ m with jobs := rest } : Part).doJob base j.kind)
      else match firstExpiry m.jobs with
        | some (n, others) => some (({ m with jobs := others } : Part).takeExpiry n)
        | none => m.startWait .slotManager j.since

/-- A period timer's expiry reaches the slot manager (R30, R35). -/
def Part.periodExpired (m : Part) (n : SlotNo) : Part :=
  if (m.slot n).periodTimer then m.tellSlotManager (.expiry n) else m

/-! ### Checks at take (Table 1-5) -/

/-- The station check fails (R8). -/
def stationFails (s : PortSetup) (o : Order) : Bool :=
  (o.station == 255 && (!isBroadcastable o.kind || s.roleOf == .peer)) ||
    (s.roleOf == .peer && o.station != s.partnerStation)

/-- The count check fails (R9). -/
def countFails (o : Order) : Bool :=
  (isFetch o.kind || isStore o.kind) &&
    !(decide (1 ≤ o.count.toNat) && decide (o.count.toNat ≤ if isBitKind o.kind then 960 else 120))

/-- The local table check fails (R9). -/
def localFails (dir : Vector TableEntry 8) (o : Order) : Bool :=
  (isFetch o.kind || isStore o.kind) &&
    (if o.localTable.toNat < 8 then
      let e := dir.get (tableNo o.localTable)
      !e.isPresent || e.isBits != isBitKind o.kind || decide (e.length.toNat < o.localIndex.toNat + o.count.toNat)
    else true)

/-- The remote table check fails (Table 1-5, step 6). -/
def remoteFails (o : Order) : Bool := namesTable o.kind && decide (7 < o.remoteTable.toNat)

/-- The follows check fails (R10). -/
def followsFails (n : SlotNo) (o : Order) : Bool :=
  o.isFollower && (decide (15 < o.follows.toNat) || o.follows == BitVec.ofNat 8 n.val)

/-- The walk of the loop check from slot `k` (R11); it reaches the armed slot `n` exactly when it fails. -/
def loopFrom (m : Part) (n : SlotNo) (fuel : Nat) (k : SlotNo) : Bool :=
  match fuel with
  | 0 => false
  | fuel + 1 =>
    if k = n then true
    else if (m.slot k).state.partOwned && (m.slot k).order.isFollower then
      loopFrom m n fuel (Fin.ofNat 16 (m.slot k).order.follows.toNat)
    else false

/-- The loop check fails (R11); a chain has at most 15 other slots. -/
def loopFails (m : Part) (n : SlotNo) (o : Order) : Bool :=
  o.isFollower && loopFrom m n 16 (Fin.ofNat 16 o.follows.toNat)

/-- The rejection code of the first check of Table 1-5 that fails, or none. -/
def Part.orderCheck (m : Part) (n : SlotNo) (o : Order) : Option Byte :=
  let s := m.portSetup o.portNo
  if 3 < o.port.toNat ∨ s.roleOf = .off ∨ s.roleOf = .responder then some badPort
  else if !isRequestCode o.kind then some badKind
  else if stationFails s o then some badStation
  else if countFails o then some badCount
  else if localFails m.setup.tables o then some badLocal
  else if remoteFails o then some badRemote
  else if 7 < o.retries.toNat then some badRetries
  else if followsFails n o then some badFollows
  else if o.isFollower && o.period != 0 then some followsWithPeriod
  else if loopFails m n o then some chainLoop
  else none

/-! ### Taking an order (R12, R13, R28 to R30) -/

/-- The repeat flag recorded at the take (R28). -/
def Part.repeatAtTake (m : Part) (o : Order) : Bool :=
  o.isFollower &&
    (let pred := m.slot (Fin.ofNat 16 o.follows.toNat)
     pred.state.partOwned && pred.repeating && !pred.withdrawMark && !pred.brokenMark)

/-- The slot of a taken order (R13); a periodic order's timer starts (R30). -/
def takenSlot (x : Slot) (o : Order) (repeatFlag : Bool) : Slot :=
  { x with
    state := .taken, order := o, withdrawMark := false, brokenMark := false, owed := false
    repeatFlag := repeatFlag, periodTimer := o.isPeriodic }

/-- The order is taken; a plain one-shot or periodic order is triggered at its take (R29). -/
def Part.takeOrder (m : Part) (n : SlotNo) (o : Order) : Part :=
  let m1 := m.onSlot n fun x => takenSlot x o (m.repeatAtTake o)
  if o.isFollower then m1 else m1.trigger n

/-- The slot of a rejected order (R12). -/
def rejectedSlot (x : Slot) (code : Byte) : Slot :=
  { x with state := .rejected, result := { ResultRecord.zero with outcome := code } }

/-- The order record of an ARM post has been read (R6): taken or rejected; IGNORED_BUSY if the engine has begun to stop
since the post was seen (log 14). -/
def Part.armPost (m : Part) (n : SlotNo) (o : Order) : Part :=
  if m.engine = .running then
    let m1 := m.onSlot n fun x => { x with postOutcome := .acted }
    match m.orderCheck n o with
    | some code => (m1.onSlot n fun x => rejectedSlot x code).tellPost (.rejection n o.notify)
    | none => (m1.takeOrder n o).tellPost (.takeWord n)
  else (m.onSlot n fun x => { x with postOutcome := .ignoredBusy }).tellPost (.postWord n)

/-- A post answered without more. -/
def Part.answerPost (m : Part) (n : SlotNo) (o : PostOutcome) : Part :=
  (m.onSlot n fun x => { x with postOutcome := o }).tellPost (.postWord n)

/-- The slot leaves service by a WITHDRAW post (R15). -/
def withdrawnSlot (x : Slot) : Slot :=
  { x with
    state := .withdrawn, postOutcome := .acted, owed := false, brokenMark := false, periodTimer := false }

/-- A slot that has left service by a post, in RUNNING: its followers are marked at once, and its part word comes before
the entries of the followers that complete (R15, R36). With or without followers the part word is a task of the tree, so
that an expiry which comes while it waits for room is held back (R31, R35; the model's choice, log 39). -/
def Part.tellLeft (m : Part) (n : SlotNo) : Part :=
  let m1 := m.markFollowers n
  { m1 with tree := .word n :: (m.followers n).map .left ++ m1.tree }

/-- A WITHDRAW post (R15 to R18). -/
def Part.withdrawPost (m : Part) (n : SlotNo) : Part :=
  match (m.slot n).state with
  | .taken | .queued =>
    let m1 := (m.unqueue n).onSlot n withdrawnSlot
    if m.engine = .running then m1.tellLeft n else m1.tellPost (.postWord n)
  | .active =>
    if (m.slot n).withdrawMark then m.answerPost n .ignoredNoop
    else (m.onSlot n fun x => { x with withdrawMark := true }).answerPost n .acted
  | .vacant | .done | .failed | .rejected | .withdrawn => m.answerPost n .ignoredNoop

/-- What a slot host word asks for (R17). -/
inductive PostRequest where
  | arm
  | withdraw
  | noop
  deriving DecidableEq, Repr

def postRequest (w : Word) : PostRequest :=
  if hostRequest w == 1 then .arm else if hostRequest w == 2 then .withdraw else .noop

/-- An ARM that is to be acted on: a host-owned slot in RUNNING (R6, R14, R18). -/
def Part.armActs (m : Part) (n : SlotNo) : Bool := m.engine == .running && !(m.slot n).state.partOwned

/-! ### Head-taking (R42) -/

/-- A PEER port holds no claim, and has none on its way to or from the claim unit (log 31). -/
def Part.claimFree (m : Part) (p : PortNo) : Bool :=
  allTables.all (fun t => (m.claimList t).all fun c => c.claimant != .port p) &&
    m.inbox.all fun i => match i with
      | .arrive q _ _ _ _ => q != p
      | .leave q => q != p
      | .expire q => q != p
      | .stored q => q != p
      | .holdPost _ _ _ => true

/-- The port is free to start a run (R42). -/
def Part.portFree (m : Part) (p : PortNo) : Bool :=
  !(m.port p).hasRun && (m.port p).activity == .idle &&
    ((m.portSetup p).roleOf != .peer || m.claimFree p)

/-- A free port takes the head of its queue in RUNNING. -/
def Part.headStep (m : Part) (p : PortNo) : Option Part :=
  match m.queue p with
  | [] => none
  | n :: rest =>
    if m.engine = .running ∧ m.portFree p = true then some ((m.setQueue p rest).beginRun p n) else none

/-- A port that has become IDLE with a suspended run resumes it (R136). -/
def Part.resumeStep (m : Part) (p : PortNo) : Option Part :=
  if (m.port p).hasRun = true ∧ (m.port p).run.suspended = true ∧ (m.port p).activity = .idle then some (m.resumeRun p)
  else none

end Sys2Proof.Machine
end

