-- ==== Sys2Proof/Machine/SweepUnit.lean ====
section
/-! DEFINITION. The sweep unit (chapter 8): when a sweep runs, its steps, and host presence. -/

namespace Sys2Proof.Machine

/-! ### Starts (R142, R143) -/

def Sweep.inProgress (w : Sweep) : Bool := w.phase != .idle

def Part.setSweepPhase (m : Part) (ph : SweepPhase) : Part := { m with sweep := { m.sweep with phase := ph } }

/-- A sweep starts: its timer starts with one full interval, and the host mark is read. -/
def Part.startSweep (m : Part) (base : Word) : Part :=
  ({ m with sweep := { m.sweep with phase := .mark, timer := true } } : Part).sweepRead base 0x000 4

/-- The ask of a timer expiry (Table 8-3); no sweep starts once the stop sequence has begun (R175). -/
def Part.sweepTimerExpired (m : Part) (base : Word) : Part :=
  if m.sweep.timer then
    if m.sweep.inProgress then
      if m.sweep.pending then { m with sweep := { m.sweep with overruns := satWord m.sweep.overruns } }
      else { m with sweep := { m.sweep with pending := true } }
    else if m.stopSequence.isSome then m
    else m.startSweep base
  else m

/-- The ask of an accepted SWEEP_NOW (Table 8-3). -/
def Part.sweepAsked (m : Part) (base : Word) : Part :=
  if m.sweep.inProgress then { m with sweep := { m.sweep with pending := true } } else m.startSweep base

/-! ### Presence (R148, R149) -/

/-- Table 8-4, with L the host silence limit; the first reading after START is only recorded. -/
def evalPresence (limit : Byte) (w : Sweep) : Sweep :=
  match w.lastMark with
  | none => { w with lastMark := some w.markRead }
  | some k =>
    let v := { w with lastMark := some w.markRead }
    if w.markRead ≠ k then { v with silence := 0, presence := .present }
    else match w.presence with
      | .absent => v
      | .present =>
        if limit = 0 then { v with silence := 0 }
        else if w.silence.toNat + 1 < limit.toNat then { v with silence := w.silence + 1 }
        else { v with silence := limit, presence := .absent }

/-- Step 4 of a sweep: the evaluation, and the ABSENT cause at the entry to ABSENT (R149). -/
def Part.evaluatePresence (m : Part) : Part :=
  let w := evalPresence m.setup.global.silenceLimit m.sweep
  let m1 := { m with sweep := w }
  if m.sweep.presence = .present ∧ w.presence = .absent then m1.setCause .absent else m1

/-! ### Steps (R144, R145) -/

def Part.readSlotWord (m : Part) (base : Word) (n : Nat) : Part :=
  (m.setSweepPhase (.slot n)).sweepRead base (slotOffset (Fin.ofNat 16 n) + 0x20) 4

def Part.readHoldWord (m : Part) (base : Word) (t : Nat) : Part :=
  (m.setSweepPhase (.hold t)).sweepRead base (tableOffset (Fin.ofNat 8 t) + 0x0C) 4

/-- The post of slot `n` has been taken whole. -/
def Part.afterSlot (m : Part) (base : Word) (n : Nat) : Part :=
  if n + 1 < 16 then m.readSlotWord base (n + 1) else m.readHoldWord base 0

/-- The hold host word of table `t` has been taken. -/
def Part.afterHold (m : Part) (base : Word) (t : Nat) : Part :=
  if t + 1 < 8 then m.readHoldWord base (t + 1) else m.evaluatePresence.setSweepPhase (.report 0)

/-- A slot host word is handed to the slot manager (R4, R6, R14 to R18). -/
def Part.handPost (m : Part) (base : Word) (n : Nat) : Part :=
  let k : SlotNo := Fin.ofNat 16 n
  let w := m.sweep.word
  if hostPost w = (m.slot k).seenPost then m.afterSlot base n
  else
    let m1 := m.onSlot k fun x => { x with seenPost := hostPost w }
    match postRequest w with
    | .arm =>
      if m1.armActs k then (m1.setSweepPhase (.order n)).sweepRead base (slotOffset k) 32
      else (m1.answerPost k .ignoredBusy).setSweepPhase (.postWait n)
    | .withdraw => (m1.withdrawPost k).setSweepPhase (.postWait n)
    | .noop => (m1.answerPost k .ignoredNoop).setSweepPhase (.postWait n)

/-- A read of a sweep ends with its bytes. -/
def Part.sweepReadDone (m : Part) (base : Word) (bytes : List Byte) : Part :=
  match m.sweep.phase with
  | .mark => ({ m with sweep := { m.sweep with markRead := wordAt bytes 0 } } : Part).readSlotWord base 0
  | .slot n => { m with sweep := { m.sweep with word := wordAt bytes 0, phase := .post n } }
  | .order n => { m with sweep := { m.sweep with orderRead := Order.ofBytes bytes, phase := .check n } }
  | .hold t =>
    (m.tellClaimUnit (.holdPost (Fin.ofNat 8 t) (hostRequest (wordAt bytes 0)) (hostPost (wordAt bytes 0)))).setSweepPhase
      (.holdWait t)
  | .idle | .post _ | .check _ | .postWait _ | .holdWait _ | .report _ | .header => m

/-! ### Work in flight (R174) and the end of a sweep (R145, R147) -/

/-- A port has work in flight. -/
def Port.inFlight (x : Port) : Bool := x.hasRun || x.activity.serves || x.tx == some .grant

def Part.workInFlight (m : Part) : Bool := allPorts.any fun p => (m.port p).inFlight

/-- The header entry is queued and the sweep ends; a pending sweep starts at the same event, unless this is the last of
STOPPING. -/
def Part.endSweep (m : Part) (base : Word) : Part :=
  let w := { m.sweep with count := m.sweep.count + 1, phase := .idle, pending := false }
  let m1 := ({ m with sweep := w } : Part).pushEntry
    (headerEntry base w.count m.engine w.presence w.overruns)
  if m.sweep.pending ∧ ¬(m.engine = .stopping ∧ m.workInFlight = false) then m1.startSweep base else m1

/-- The sweep's next entry, when it has come to one: a report block or the header. -/
def Part.sweepEntry (m : Part) (base : Word) : Option Part :=
  match m.sweep.phase with
  | .report p =>
    some ((m.pushEntry (reportEntry base (Fin.ofNat 4 p) (m.port (Fin.ofNat 4 p)))).setSweepPhase
      (if p + 1 < 4 then .report (p + 1) else .header))
  | .header => some (m.endSweep base)
  | .idle | .mark | .slot _ | .post _ | .order _ | .check _ | .postWait _ | .hold _ | .holdWait _ => none

def JobKind.isPost : JobKind → Bool
  | .postWord _ | .takeWord _ | .rejection _ _ => true
  | .runEnding _ | .expiry _ => false

def ClaimInput.isHoldPost : ClaimInput → Bool
  | .holdPost _ _ _ => true
  | .arrive _ _ _ _ _ | .leave _ | .expire _ | .stored _ => false

/-- The sweep goes on as far as it can without a read: it hands over what it has read when the slot manager is in no
delivery tree, behind the completions and expiries that the tree held back (R35; the model's choice, DESIGN CHOICE, log
45), goes on when a post or a hold post has been taken, and queues its entries or waits for room. -/
def Part.sweepStep (m : Part) (base : Word) : Option Part :=
  match m.sweep.phase with
  | .post n => if m.tree.isEmpty then some (m.handPost base n) else none
  | .check n =>
    if m.tree.isEmpty then
      some ((m.armPost (Fin.ofNat 16 n) m.sweep.orderRead).setSweepPhase (.postWait n))
    else none
  | .postWait n =>
    if m.tree.isEmpty && !m.jobs.any fun j => j.kind.isPost then some (m.afterSlot base n) else none
  | .holdWait t => if m.inbox.any ClaimInput.isHoldPost then none else some (m.afterHold base t)
  | .report _ | .header =>
    if m.mayQueue .sweepUnit then m.sweepEntry base else m.startWait .sweepUnit m.eventNo
  | .idle | .mark | .slot _ | .order _ | .hold _ => none

end Sys2Proof.Machine
end

