-- ==== Sys2Proof/Machine/Engine.lean ====
section
/-! DEFINITION. Engine control (chapter 10): setup checks, LOADING and adoption, STOPPING and STOPPED, FAULTED, resets,
and the commands of CONTROL. -/

namespace Sys2Proof.Machine

/-! ### Setup checks (R47, R48, R169, R170) -/

/-- A field of the global setup is out of range (R169). -/
def globalFails (g : GlobalSetup) : Bool := g.sweepInterval == 0 || g.claimWaitLimit == 0

/-- Table 10-6. -/
def portSetupFails (p : PortSetup) : Bool :=
  if 3 < p.role.toNat then true
  else if p.role == 0 then false
  else
    decide (7 < p.speed.toNat) || decide (2 < p.parity.toNat) ||
      !(decide (2 ≤ p.gapLimit.toNat) && decide (p.gapLimit.toNat ≤ 15)) ||
      ((p.role == 1 || p.role == 3) &&
        !(decide (5 ≤ p.replyTimeout.toNat) && decide (p.replyTimeout.toNat ≤ 5000))) ||
      ((p.role == 2 || p.role == 3) && decide (254 < p.ownStation.toNat)) ||
      (p.role == 3 && (decide (254 < p.partnerStation.toNat) || p.partnerStation == p.ownStation)) ||
      (p.role == 3 && !(decide (1 ≤ p.bidLimit.toNat) && decide (p.bidLimit.toNat ≤ 31)))

/-- R47. -/
def tableEntryFails (t : TableEntry) : Bool :=
  t.isPresent &&
    (decide (1 < t.kind.toNat) || decide (2 < t.access.toNat) ||
      !(decide (1 ≤ t.length.toNat) && decide (t.length.toNat ≤ 65535)) ||
      (t.kind == 0 && t.base.toNat % 2 == 1) || decide (2 ^ 32 < t.base.toNat + t.byteSize))

/-- The byte span of a table as a half-open range. -/
def TableEntry.bytesFrom (t : TableEntry) : Nat := t.base.toNat
def TableEntry.bytesTo (t : TableEntry) : Nat := t.base.toNat + t.byteSize

/-- A present table shares a byte with the exchange area (R48). -/
def meetsArea (base : Word) (t : TableEntry) : Bool :=
  t.isPresent && rangesMeet t.bytesFrom t.bytesTo base.toNat (base.toNat + 0x800)

/-- Two present tables share a byte (R48). -/
def tablesMeet (a b : TableEntry) : Bool :=
  a.isPresent && b.isPresent && rangesMeet a.bytesFrom a.bytesTo b.bytesFrom b.bytesTo

def overlapFails (base : Word) (dir : Vector TableEntry 8) : Bool :=
  allTables.any fun t =>
    meetsArea base (dir.get t) || allTables.any fun u => decide (t < u) && tablesMeet (dir.get t) (dir.get u)

/-- The setup error code of the first check that fails, in the order of R168; 0 when every check passes (Table 10-4). -/
def setupCheck (base : Word) (s : Setup) : BitVec 4 :=
  if s.global.signature ≠ Config.signature then 1
  else if globalFails s.global then 2
  else match allPorts.find? fun p => portSetupFails (s.ports.get p) with
    | some p => BitVec.ofNat 4 (3 + p.val)
    | none =>
      match allTables.find? fun t => tableEntryFails (s.tables.get t) with
      | some t => BitVec.ofNat 4 (7 + t.val)
      | none => if overlapFails base s.tables then 15 else 0

/-! ### Entries to STOPPED, FAULTED and reset (R171, R175 to R177) -/

/-- OFFLINE: receiver machine inactive, DRVEN deasserted (R175); a port without work in flight has no access. The gap
timer does not measure, and no delay runs (log 36). -/
def Port.offline (x : Port) : Port :=
  { x with
    activity := .offline, tx := none, receiver := Receiver.reset, underWay := 0, silence := false
    holdoff := false, answerDelay := false, access := none }

/-- The entry to STOPPED that ends the stop sequence (R175). -/
def Part.enterStopped (m : Part) : Part :=
  ({ m with
    engine := .stopped
    stopSequence := none
    sweep := { m.sweep with timer := false, pending := false, phase := .idle }
    queues := Vector.replicate 4 []
    claims := Vector.replicate 8 []
    ports := m.ports.map Port.offline } : Part).setCause .stopped

/-- LOADING ends in STOPPED with a setup error code: an abandoned load with 0 (R168), a failed check with its own
(R171). -/
def Part.endLoading (m : Part) (code : BitVec 4) : Part :=
  ({ m with engine := .stopped, setupError := code, loader := Loader.reset } : Part).setCause .stopped

/-- OFFLINE after a fault: run, service and peer records, access and buffers discarded; tallies, fault record and tag
counter kept (R106, R127, R140, R176). Log 22. -/
def Port.faulted (x : Port) : Port :=
  { Port.reset with
    activity := .offline, tallies := x.tallies, fault := x.fault, tagCounter := x.tagCounter }

/-- The hold of a table is discarded; its other fields are kept (R62; log 22). -/
def TableRecord.faulted (t : TableRecord) : TableRecord := { t with holdState := .free }

/-- The entry to FAULTED (R176, and R26, R51, R147, R163). -/
def Part.enterFaulted (m : Part) (code : FaultCode) (addr : Nat) : Part :=
  ({ m with
    engine := .faulted
    faultCode := code
    faultAddress := BitVec.ofNat 32 addr
    loader := Loader.reset
    stopSequence := none
    clearPending := []
    slots := Vector.replicate 16 Slot.reset
    queues := Vector.replicate 4 []
    tree := []
    jobs := []
    tables := m.tables.map TableRecord.faulted
    claims := Vector.replicate 8 []
    inbox := []
    ports := m.ports.map Port.faulted
    sweep := { m.sweep with phase := .idle, timer := false, pending := false }
    xq := []
    waiters := []
    sweepAccess := none
    bus := none } : Part).setCause .fault

/-- Every block goes to its reset value (R177); the model's count of events goes on. -/
def Part.afterReset (m : Part) : Part := { Part.reset with eventNo := m.eventNo }

/-! ### STOPPING (R139, R174) -/

/-- A PEER port in GRANTED_OUT leaves that state at the entry to STOPPING; a GRANT being transmitted is sent to its end
(R139). -/
def Port.leaveGrant (x : Port) : Port :=
  if x.activity = .grantedOut then
    match x.peer.grantPhase with
    | .transmitting => x
    | .none | .pending | .granted => { x with activity := .idle, peer := { x.peer with grantPhase := .none } }
  else x

def Part.enterStopping (m : Part) : Part := { m with engine := .stopping, ports := m.ports.map Port.leaveGrant }

/-! ### LOADING (R168, R172) -/

/-- Offset and size of setup read `k` (Table 10-5). -/
def setupRead (k : Nat) : Nat × Nat :=
  if k = 0 then (0x040, 32)
  else if k < 5 then (0x060 + 32 * (k - 1), 32)
  else (0x100 + 32 * (k - 5), 12)

/-- Offset of adoption read `k` (Table 10-5). -/
def adoptRead (k : Nat) : Nat := if k < 16 then 0x420 + 64 * k else 0x10C + 32 * (k - 16)

def Part.setLoadPhase (m : Part) (ph : LoadPhase) : Part := { m with loader := { m.loader with phase := ph } }

def Part.startSetupRead (m : Part) (base : Word) (k : Nat) : Part :=
  (m.setLoadPhase (.setupRead k)).sweepRead base (setupRead k).1 (setupRead k).2

def Part.startAdoptRead (m : Part) (base : Word) (k : Nat) : Part :=
  (m.setLoadPhase (.adoptRead k)).sweepRead base (adoptRead k) 4

/-- The fields of setup read `k` are kept. -/
def Setup.store (s : Setup) (k : Nat) (bytes : List Byte) : Setup :=
  if k = 0 then { s with global := GlobalSetup.ofBytes bytes }
  else if k < 5 then { s with ports := s.ports.set ((k - 1) % 4) (PortSetup.ofBytes bytes) (Nat.mod_lt _ (by decide)) }
  else { s with tables := s.tables.set ((k - 5) % 8) (TableEntry.ofBytes bytes) (Nat.mod_lt _ (by decide)) }

/-- The host word of adoption read `k` is kept. -/
def Loader.storeWord (l : Loader) (k : Nat) (w : Word) : Loader :=
  if k < 16 then { l with hostWords := l.hostWords.set (k % 16) w (Nat.mod_lt _ (by decide)) }
  else { l with holdWords := l.holdWords.set ((k - 16) % 8) w (Nat.mod_lt _ (by decide)) }

/-- A read of LOADING ends with its bytes: the next read, the checks after the last setup read, the adoption after the
last adoption read, whose first step replaces the adopted copies (R172). -/
def Part.loaderReadDone (m : Part) (base : Word) (bytes : List Byte) : Part :=
  match m.loader.phase with
  | .setupRead k =>
    let s := m.loader.candidate.store k bytes
    let m1 := { m with loader := { m.loader with candidate := s } }
    if k < 12 then m1.startSetupRead base (k + 1)
    else if setupCheck base s = 0 then m1.startAdoptRead base 0
    else m1.endLoading (setupCheck base s)
  | .adoptRead k =>
    let m1 := { m with loader := m.loader.storeWord k (wordAt bytes 0) }
    if k < 23 then m1.startAdoptRead base (k + 1)
    else { m1 with setup := m.loader.candidate, loader := { m1.loader with phase := .adopting 0 } }
  | .idle | .clearing | .adopting _ => m

/-- A slot at adoption (R3). -/
def adoptedSlot (w : Word) : Slot := { Slot.reset with seenPost := hostPost w }

/-- A table record at adoption (R58). -/
def adoptedTable (w : Word) : TableRecord := { TableRecord.reset with seenHold := hostPost w }

/-- A port takes its adopted role (R172): IDLE with its receiver machine in HUNT, or OFFLINE. The gap timer measures from
the adoption on, before any character has ended (log 36). -/
def adoptedPort (s : PortSetup) : Port :=
  match s.roleOf with
  | .off => { Port.reset with activity := .offline }
  | .master | .responder | .peer =>
    { Port.reset with activity := .idle, receiver := Receiver.hunting, silence := true }

/-- The last step of the adoption: the sweep unit and the ports are set, the engine enters RUNNING and the first sweep
starts; a held STOP takes effect (R172). -/
def Part.enterRunning (m : Part) (base : Word) : Part :=
  let m1 := ({ m with
    engine := .running
    loader := Loader.reset
    queues := Vector.replicate 4 []
    claims := Vector.replicate 8 []
    ports := m.setup.ports.map adoptedPort
    sweep := Sweep.reset
    pointer := .sweep } : Part).startSweep base
  if m.loader.stopHeld then m1.enterStopping else m1

/-- Adoption entry `k`, for which there is room (R172). -/
def Part.adoptEntry (m : Part) (base : Word) (k : Nat) : Part :=
  if k < 16 then
    let n : SlotNo := Fin.ofNat 16 k
    let x := adoptedSlot (m.loader.hostWords.get n)
    ((m.setSlot n x).pushEntry (completionEntry base n x)).setLoadPhase (.adopting (k + 1))
  else if k < 24 then
    let t : TableNo := Fin.ofNat 8 (k - 16)
    let x := adoptedTable (m.loader.holdWords.get t)
    ((m.setTable t x).pushEntry (tableRecordEntry base t x)).setLoadPhase (.adopting (k + 1))
  else if k < 28 then
    let p : PortNo := Fin.ofNat 4 (k - 24)
    let m1 := m.onPort p Port.clearTallies
    (m1.pushEntry (reportEntry base p (m1.port p))).setLoadPhase (.adopting (k + 1))
  else
    (m.pushEntry (headerEntry base 0 .running .present 0)).enterRunning base

/-- The adoption goes on, or engine control begins to wait for room. -/
def Part.adoptStep (m : Part) (base : Word) : Option Part :=
  match m.loader.phase with
  | .adopting k =>
    if m.mayQueue .engineControl then some (m.adoptEntry base k) else m.startWait .engineControl m.eventNo
  | .idle | .clearing | .setupRead _ | .adoptRead _ => none

/-! ### CLEAR_TALLIES in STOPPED (R166 note 1) -/

/-- A report block entry of CLEAR_TALLIES, for which there is room; after the last, a START taken meanwhile makes its
first read. -/
def Part.clearEntry (m : Part) (base : Word) (p : PortNo) (rest : List PortNo) : Part :=
  let m1 := ({ m with clearPending := rest } : Part).pushEntry (reportEntry base p (m.port p))
  if rest.isEmpty ∧ m.loader.phase = .clearing then m1.startSetupRead base 0 else m1

def Part.clearStep (m : Part) (base : Word) : Option Part :=
  match m.clearPending with
  | [] => none
  | p :: rest =>
    if m.mayQueue .engineControl then some (m.clearEntry base p rest) else m.startWait .engineControl m.eventNo

/-! ### The stop sequence (R175) -/

/-- The completion of a slot on entry to STOPPED (R25). -/
def stoppedCompletion : Completion := ⟨outcomeStopped, 0, 0, 0, zeroReply, .none⟩

/-- The hold of table `t` is removed, and its table record entry, showing FREE, queued (R62). -/
def Part.releaseHold (m : Part) (base : Word) (t : TableNo) : Part :=
  ((m.setTable t { m.table t with holdState := .free }).claimLeaves t .hold).queueTableRecord base t

/-- The part's blocks hold nothing back: the claim unit and the slot manager have taken all that reached them. -/
def Part.blocksIdle (m : Part) : Bool := m.inbox.isEmpty && m.tree.isEmpty && m.jobs.isEmpty

/-- The stop sequence's next entry, when it has come to one. -/
def Part.stopEntry (m : Part) (base : Word) : Option Part :=
  match m.stopSequence with
  | some (.holds t) =>
    if t < 8 ∧ m.holdClaimed (Fin.ofNat 8 t) = true ∧ m.blocksIdle = true then
      some { m.releaseHold base (Fin.ofNat 8 t) with stopSequence := some (.holds (t + 1)) }
    else none
  | some (.slots n) =>
    if n < 16 ∧ (m.slot (Fin.ofNat 16 n)).state.partOwned = true ∧ m.blocksIdle = true then
      some { m.complete base (Fin.ofNat 16 n) stoppedCompletion with stopSequence := some (.slots (n + 1)) }
    else none
  | some .header =>
    if m.blocksIdle then
      some (m.pushEntry (headerEntry base m.sweep.count .stopped m.sweep.presence m.sweep.overruns)).enterStopped
    else none
  | none => none

/-- The stop sequence goes on past what needs no entry, and begins when no port has work in flight and no sweep is in
progress. -/
def Part.stopAdvance (m : Part) : Option Part :=
  match m.stopSequence with
  | none =>
    if m.workInFlight = false ∧ m.sweep.inProgress = false then some { m with stopSequence := some (.holds 0) } else none
  | some (.holds t) =>
    if 8 ≤ t then some { m with stopSequence := some (.slots 0) }
    else if m.holdClaimed (Fin.ofNat 8 t) then none
    else some { m with stopSequence := some (.holds (t + 1)) }
  | some (.slots n) =>
    if 16 ≤ n then some { m with stopSequence := some .header }
    else if (m.slot (Fin.ofNat 16 n)).state.partOwned then none
    else some { m with stopSequence := some (.slots (n + 1)) }
  | some .header => none

def Part.stopStep (m : Part) (base : Word) : Option Part :=
  if m.engine = .stopping then
    match m.stopAdvance with
    | some m1 => some m1
    | none =>
      match m.stopEntry base with
      | none => none
      | some m1 => if m.mayQueue .engineControl then some m1 else m.startWait .engineControl m.eventNo
  else none

end Sys2Proof.Machine
end

