-- ==== Sys2Proof/Machine/Bus.lean ====
section
/-! DEFINITION. The memory port (chapter 9): pending bursts, the rotation, and what the answer or the error of a burst
brings. -/

namespace Sys2Proof.Machine

/-! ### The rotation (R155) -/

/-- The place after a requester in the circle. -/
def Requester.next : Requester → Requester
  | .sweep => .port 0
  | .port p => if p = 3 then .writer else .port (p + 1)
  | .writer => .sweep

/-- The circle from a place on. -/
def Requester.circle (r : Requester) : List Requester :=
  [r, r.next, r.next.next, r.next.next.next, r.next.next.next.next, r.next.next.next.next.next]

/-- The next burst of the head entry of the exchange write queue (R159). -/
def Entry.burst (e : Entry) : Option (Nat × Nat) :=
  match e.pieces with
  | [] => none
  | p :: _ => some (p.addr, min p.bytes.length (toBoundary p.addr))

/-- First address and length of a requester's pending burst; none when it has none. -/
def Part.pendingBurst (m : Part) (who : Requester) : Option (Nat × Nat) :=
  match who with
  | .sweep => m.sweepAccess.map Access.burst
  | .port p => (m.port p).access.map Access.burst
  | .writer => m.xq.head?.bind Entry.burst

/-- The first requester of a list that has a pending burst. -/
def Part.firstPending (m : Part) (l : List Requester) : Option (Requester × Nat × Nat) :=
  match l with
  | [] => none
  | who :: rest =>
    match m.pendingBurst who with
    | some b => some (who, b)
    | none => m.firstPending rest

/-- A free bus is granted to the first requester with a pending burst from the pointer on, and the pointer moves to the
place after it. -/
def Part.grantBus (m : Part) : Part :=
  match m.bus with
  | some _ => m
  | none =>
    match m.firstPending m.pointer.circle with
    | none => m
    | some (who, addr, len) => { m with bus := some ⟨who, addr, len, false, m.eventNo⟩, pointer := who.next }

/-! ### The burst in progress -/

/-- The burst granted at event `event` is in progress: any other burst has ended or been abandoned, and its late answer is
ignored (R161, R163). -/
def Part.awaits (m : Part) (event : Nat) : Bool :=
  match m.bus with
  | none => false
  | some b => b.event == event

/-- The bytes a burst carries to memory: none for a read, and none once its access has been abandoned. -/
def Part.burstBytes (m : Part) (b : Burst) : List Byte :=
  if b.discarded then []
  else match b.who with
    | .sweep => (m.sweepAccess.map fun a => a.burstWrite b.len).getD []
    | .port p => ((m.port p).access.map fun a => a.burstWrite b.len).getD []
    | .writer => ((m.xq.head?.bind fun e => e.pieces.head?).map fun p => p.bytes.take b.len).getD []

/-- What is left of an entry once a burst of `len` bytes of its first piece has ended. -/
def Entry.afterBurst (e : Entry) (len : Nat) : Entry :=
  match e.pieces with
  | [] => e
  | p :: rest => ⟨if p.bytes.length ≤ len then rest else ⟨p.addr + len, p.bytes.drop len⟩ :: rest⟩

/-- A burst of the exchange writer has ended; the entry leaves the queue after its last burst (R159). -/
def Part.writerDone (m : Part) (len : Nat) : Part :=
  match m.xq with
  | [] => m
  | e :: rest => { m with xq := if (e.afterBurst len).pieces = [] then rest else e.afterBurst len :: rest }

/-- A burst of the sweep unit has been answered; at the end of the access its bytes go to engine control in LOADING and
to the sweep otherwise (R144, R168). -/
def Part.sweepBurstDone (m : Part) (base : Word) (len : Nat) (data : List Byte) : Part :=
  match m.sweepAccess with
  | none => m
  | some a =>
    let a' := a.afterBurst len data
    if a'.isDone then
      let m1 : Part := { m with sweepAccess := none }
      if m.engine = .loading then m1.loaderReadDone base a'.bytesRead else m1.sweepReadDone base a'.bytesRead
    else { m with sweepAccess := some a' }

/-- A burst of a port has been answered. -/
def Part.portBurstDone (m : Part) (p : PortNo) (len : Nat) (data : List Byte) : Part :=
  match (m.port p).access with
  | none => m
  | some a =>
    let a' := a.afterBurst len data
    if a'.isDone then (m.onPort p fun x => { x with access := none }).portAccessDone p a'.bytesRead
    else m.onPort p fun x => { x with access := some a' }

/-- The burst in progress has been answered without error (R154). -/
def Part.burstDone (m : Part) (base : Word) (data : List Byte) : Part :=
  match m.bus with
  | none => m
  | some b =>
    let m1 : Part := { m with bus := none }
    if b.discarded then m1
    else match b.who with
      | .sweep => m1.sweepBurstDone base b.len data
      | .port p => m1.portBurstDone p b.len data
      | .writer => m1.writerDone b.len

/-- The burst in progress has ended in a bus error (R161, R162, Table 9-5). -/
def Part.burstFailed (m : Part) : Part :=
  match m.bus with
  | none => m
  | some b =>
    let m1 : Part := { m with bus := none }
    if b.discarded then m1
    else match b.who with
      | .sweep => m1.enterFaulted (if m.engine = .loading then .loadRead else .sweepRead) b.addr
      | .port p => if (m.port p).access.isSome then m1.portBusError p else m1
      | .writer => m1.enterFaulted .exchangeWrite b.addr

/-! ### Memory -/

/-- Memory once the burst in progress has been answered. -/
def Part.memoryDone (m : Part) (mem : List Host.Cell) : List Host.Cell :=
  match m.bus with
  | none => mem
  | some b => Memory.writeBytes mem b.addr (m.burstBytes b)

/-- Memory once the burst in progress has failed, or has been abandoned by a reset (R161, R163). -/
def Part.memoryCut (m : Part) (mem : List Host.Cell) : List Host.Cell :=
  match m.bus with
  | none => mem
  | some b => Memory.writeTaken mem m.eventNo b.addr 0 (m.burstBytes b)

end Sys2Proof.Machine
end

