-- ==== Sys2Proof/Machine/Settle.lean ====
section
/-! DEFINITION. One event of the part: the command's own effect, then all the work it sets off inside the part at the
same event, then the grant of the bus (convention 6 of the scope; R155). -/

namespace Sys2Proof.Machine

/-- The first of two pieces of work that there is. -/
def orElse (a b : Option Part) : Option Part :=
  match a with
  | some m => some m
  | none => b

/-- The next piece of internal work while the engine is RUNNING or STOPPING: the claim unit, the delivery tree in progress,
suspended runs before head-takings (R136), ports in ascending order, the slot manager's next job, the sweep, the stop
sequence last (log 11). A completion or expiry held behind a delivery tree is an event of its own (R35), so a free port
takes its head before the next one is taken (R42). R35 has the posts, completions and expiries that reach the slot manager
during a delivery tree taken after it and gives them no order, and R43 speaks of the one that reaches it first: that the
held completions and expiries, and the head-takings they set off, come before a post that the sweep has handed over in
the meantime, whichever came first, is the model's choice (DESIGN CHOICE, log 45). -/
def Part.workingStep (m : Part) (base : Word) : Option Part :=
  orElse (m.claimStep base) <|
  orElse (m.treeStep base) <|
  orElse (m.resumeStep 0) <| orElse (m.resumeStep 1) <| orElse (m.resumeStep 2) <| orElse (m.resumeStep 3) <|
  orElse (m.headStep 0) <| orElse (m.headStep 1) <| orElse (m.headStep 2) <| orElse (m.headStep 3) <|
  orElse (m.jobStep base) <|
  orElse (m.sweepStep base) <|
  m.stopStep base

/-- The next piece of internal work in any other state: the entries of CLEAR_TALLIES and of the adoption. -/
def Part.quietStep (m : Part) (base : Word) : Option Part := orElse (m.clearStep base) (m.adoptStep base)

def Part.settleStep (m : Part) (base : Word) : Option Part :=
  if m.engine.working then m.workingStep base else m.quietStep base

/-- Internal work until there is none. -/
def Part.settle (base : Word) (fuel : Nat) (m : Part) : Part :=
  match fuel with
  | 0 => m
  | fuel + 1 =>
    match m.settleStep base with
    | none => m
    | some m1 => Part.settle base fuel m1

/-- What follows a command's own effect at the same event. -/
def Part.finish (base : Word) (m : Part) : Part := (Part.settle base Config.settleFuel m).grantBus

/-- The event's number. -/
def Part.tick (m : Part) : Part := { m with eventNo := m.eventNo + 1 }

/-- An event of the ports, the slot manager, the claim unit or the sweep unit: while the engine is in no state in which
they work, no timer runs and nothing is received, and it has no effect (R73, R142, R175 to R177). Log 7. -/
def Part.whileWorking (f : Part → Part) (m : Part) : Part := if m.engine.working then f m else m

/-- An event whose own effect on the part is `f`; without effect while RESET_N is asserted (R164, R177). -/
def State.onPart (s : State) (f : Word → Part → Part) : State :=
  if s.window.resetAsserted then s
  else { s with part := Part.finish s.window.base (f s.window.base s.part.tick) }

end Sys2Proof.Machine
end

