-- ==== Sys2Proof/Machine/EngineCommands.lean ====
section
/-! DEFINITION. The commands of the register window and of the RESET_N pin (chapter 10; R152 for ATTENTION). -/

namespace Sys2Proof.Machine

/-- What every command answers with. -/
abbrev Result := Host.Outcome State Fault Refusal

/-! ### Accepted and refused writes (R164, R166) -/

/-- An accepted command: CONTROL reads its code, the flag is clear, and the part takes the command. -/
def State.accept (s : State) (code : BitVec 3) (f : Word → Part → Part) : State :=
  { s.onPart f with window := { s.window with control := code, refused := false } }

/-- A refused write sets the flag and has no other effect. -/
def State.refuse (s : State) : State := { s with window := { s.window with refused := true } }

/-- While RESET_N is asserted a write has no effect (R164). -/
def State.unlessReset (s t : State) : State := if s.window.resetAsserted then s else t

/-! ### START (R168; R166 note 1) -/

/-- LOADING begins: the error code is 0, and the first setup read is made, or waits for the entries of CLEAR_TALLIES. -/
def Part.startLoading (base : Word) (m : Part) : Part :=
  let m1 := { m with engine := .loading, setupError := 0, loader := Loader.reset }
  if m1.clearPending.isEmpty then m1.startSetupRead base 0 else m1.setLoadPhase .clearing

def State.takeStart (s : State) : State :=
  match s.part.engine with
  | .halted | .stopped => s.accept 1 Part.startLoading
  | .loading | .running | .stopping | .faulted => s.refuse

/-! ### STOP (R168, R172, R174) -/

/-- The load is abandoned (R168): the outstanding access is discarded, and the answer of its burst will be ignored. -/
def Part.abandonLoad (m : Part) : Part :=
  ({ m with
    sweepAccess := none
    bus := m.bus.map fun b => if b.who = .sweep then { b with discarded := true } else b } : Part).endLoading 0

/-- STOP in LOADING: held once the adoption reads have ended, an abandoned load before. -/
def Part.stopInLoading (m : Part) : Part :=
  match m.loader.phase with
  | .adopting _ => { m with loader := { m.loader with stopHeld := true } }
  | .idle | .clearing | .setupRead _ | .adoptRead _ => m.abandonLoad

def State.takeStop (s : State) : State :=
  match s.part.engine with
  | .loading => s.accept 2 fun _ => Part.stopInLoading
  | .running => s.accept 2 fun _ => Part.enterStopping
  | .halted | .stopping | .stopped | .faulted => s.refuse

/-! ### RESET and RESET_N (R163, R177) -/

/-- A reset event: every block at its reset value; a write burst in progress is abandoned. -/
def State.afterReset (s : State) (w : Window) : State :=
  { s with window := w, part := s.part.tick.afterReset, memory := s.part.tick.memoryCut s.memory }

/-- Registers after a soft reset (Table 10-2). -/
def Window.afterSoftReset (w : Window) : Window := { Window.reset with base := w.base, control := 3 }

/-- Registers while RESET_N is asserted (Table 10-2). -/
def Window.inPinReset : Window := { Window.reset with resetAsserted := true }

def State.takeReset (s : State) : State := s.afterReset s.window.afterSoftReset

/-! ### SWEEP_NOW and CLEAR_TALLIES (R143, R166 note 1, R181) -/

def State.takeSweepNow (s : State) : State :=
  match s.part.engine with
  | .running => s.accept 4 fun base m => m.sweepAsked base
  | .halted | .loading | .stopping | .stopped | .faulted => s.refuse

/-- Every port is cleared. -/
def Part.clearAllTallies (m : Part) : Part := m.onPorts Port.clearTallies

/-- In STOPPED the four report block entries follow. -/
def Part.clearInStopped (m : Part) : Part :=
  { m.clearAllTallies with clearPending := m.clearPending ++ allPorts }

def State.takeClearTallies (s : State) : State :=
  match s.part.engine with
  | .running => s.accept 5 fun _ => Part.clearAllTallies
  | .stopped => s.accept 5 fun _ => Part.clearInStopped
  | .halted | .loading | .stopping | .faulted => s.refuse

/-- A write of a command code to CONTROL (R166, Table 10-3). -/
def State.writeControl (s : State) (code : Word) : State :=
  if code = 1 then s.takeStart
  else if code = 2 then s.takeStop
  else if code = 3 then s.takeReset
  else if code = 4 then s.takeSweepNow
  else if code = 5 then s.takeClearTallies
  else s.refuse

/-! ### The commands -/

/-- START (R168). -/
def execStart (s : State) : Result := .next (s.unlessReset s.takeStart)

/-- STOP (R174). -/
def execStop (s : State) : Result := .next (s.unlessReset s.takeStop)

/-- SOFT_RESET (R177). -/
def execSoftReset (s : State) : Result := .next (s.unlessReset s.takeReset)

/-- SWEEP_NOW (R143). -/
def execSweepNow (s : State) : Result := .next (s.unlessReset s.takeSweepNow)

/-- CLEAR_TALLIES (R181). -/
def execClearTallies (s : State) : Result := .next (s.unlessReset s.takeClearTallies)

/-- BASE as written: bits 7..0 are ignored (R165), bytes not written are 0 (R164). -/
def writtenBase (value : Word) (lanes : Lanes) : Word := laneValue value lanes &&& 0xFFFFFF00

def State.takeBase (s : State) (value : Word) : State :=
  match s.part.engine with
  | .halted | .stopped => { s with window := { s.window with base := value, refused := false } }
  | .loading | .running | .stopping | .faulted => s.refuse

/-- BASE_WRITE (R165). -/
def execBaseWrite (value : Word) (lanes : Lanes) (s : State) : Result :=
  .next (s.unlessReset (s.takeBase (writtenBase value lanes)))

def State.takeAttention (s : State) (value : Word) : State :=
  { s with
    window := { s.window with enables := writtenEnables value }
    part := { s.part with causes := clearCauses s.part.causes value } }

/-- ATTENTION_WRITE (R152). -/
def execAttentionWrite (value : Word) (lanes : Lanes) (s : State) : Result :=
  .next (s.unlessReset (s.takeAttention (laneValue value lanes)))

/-- A write to STATUS or FAULT_ADDRESS has no effect (R164); a write to CONTROL is judged by its code (R166; log 18). -/
def State.takeOther (s : State) (reg : OtherRegister) (value : Word) : State :=
  match reg with
  | .control => s.writeControl value
  | .status | .faultAddress => s

/-- OTHER_REGISTER_WRITE (R164). -/
def execOtherRegisterWrite (reg : OtherRegister) (value : Word) (lanes : Lanes) (s : State) : Result :=
  .next (s.unlessReset (s.takeOther reg (laneValue value lanes)))

/-- PIN_RESET (R177). -/
def execPinReset (s : State) : Result := .next (s.afterReset Window.inPinReset)

/-- PIN_RESET_RELEASE (R177). -/
def execPinResetRelease (s : State) : Result := .next { s with window := { s.window with resetAsserted := false } }

end Sys2Proof.Machine
end

