-- ==== Sys2Proof/Machine/LineCommands.lean ====
section
/-! DEFINITION. The commands of the field lines: characters, silence, and the ends of transmissions (chapter 4; R93, R94,
R123, R129, R134). -/

namespace Sys2Proof.Machine

/-- An event of a port or of another block that works in RUNNING and STOPPING alone. -/
def State.onWorking (s : State) (f : Part → Part) : State := s.onPart fun _ => Part.whileWorking f

/-- CHARACTER_ARRIVAL (R68, R73 to R79). -/
def execCharacterArrival (p : PortNo) (levels : Levels) (edge sinh : Bool) (s : State) : Result :=
  .next (s.onWorking fun m => m.character p levels edge sinh)

/-- GAP_EXCEEDED (R77). -/
def execGapExceeded (p : PortNo) (s : State) : Result := .next (s.onWorking fun m => m.gapPassed p)

/-- GAP_REACHED (R78). -/
def execGapReached (p : PortNo) (s : State) : Result := .next (s.onWorking fun m => m.gapComplete p)

/-- CONFIRMED_START_EDGE (R69). -/
def execConfirmedStartEdge (p : PortNo) (s : State) : Result := .next (s.onWorking fun m => m.startEdge p)

/-- The end of a request's transmission (R93, R94). -/
def Part.requestEnds (m : Part) (p : PortNo) : Part :=
  if (m.port p).tx = some .request then m.requestSent p else m

/-- REQUEST_END_OF_TRANSMISSION (R93). -/
def execRequestEndOfTransmission (p : PortNo) (s : State) : Result := .next (s.onWorking fun m => m.requestEnds p)

/-- The end of a BID's transmission: the bid waits, and its timer runs (R129). -/
def Part.bidEnds (m : Part) (p : PortNo) : Part :=
  if (m.port p).tx = some .bid then
    m.onPort p fun x => { x.endTx with peer := { x.peer with bidPhase := .waiting } }
  else m

/-- BID_END_OF_TRANSMISSION (R129). -/
def execBidEndOfTransmission (p : PortNo) (s : State) : Result := .next (s.onWorking fun m => m.bidEnds p)

/-- The end of a GRANT's transmission: granted, with the grant timer running (R134), or IDLE in STOPPING (R139). -/
def Part.grantEnds (m : Part) (p : PortNo) : Part :=
  if (m.port p).tx = some .grant then
    if m.engine = .stopping then
      m.onPort p fun x => { x.endTx with activity := .idle, peer := { x.peer with grantPhase := .none } }
    else m.onPort p fun x => { x.endTx with peer := { x.peer with grantPhase := .granted } }
  else m

/-- GRANT_END_OF_TRANSMISSION (R134). -/
def execGrantEndOfTransmission (p : PortNo) (s : State) : Result := .next (s.onWorking fun m => m.grantEnds p)

/-- The end of an answer's transmission: the port is IDLE and its service ends (R123). -/
def Part.answerEnds (m : Part) (p : PortNo) : Part :=
  if (m.port p).tx = some .answer then m.onPort p fun x => { x.endTx with activity := .idle } else m

/-- ANSWER_END_OF_TRANSMISSION (R123). -/
def execAnswerEndOfTransmission (p : PortNo) (s : State) : Result := .next (s.onWorking fun m => m.answerEnds p)

end Sys2Proof.Machine
end

