-- ==== Sys2Proof/Machine/TimerCommands.lean ====
section
/-! DEFINITION. The commands of the delays and timers of ports, slots, claims and sweeps. -/

namespace Sys2Proof.Machine

/-! ### Delays that hold a transmission (R93, R123, R129, R134) -/

/-- LINE_HOLDOFF_END (R93). -/
def execLineHoldoffEnd (p : PortNo) (s : State) : Result := .next (s.onWorking fun m => m.holdoffPasses p)

/-- BID_HOLDOFF_END (R129): the line holdoff of R93, named for the BID that waits for it (log 6). -/
def execBidHoldoffEnd (p : PortNo) (s : State) : Result := .next (s.onWorking fun m => m.holdoffPasses p)

/-- A pending GRANT is sent. -/
def Part.grantHoldEnds (m : Part) (p : PortNo) : Part :=
  if (m.port p).activity = .grantedOut ∧ (m.port p).peer.grantPhase = .pending then m.onPort p Port.startGrant else m

/-- GRANT_HOLD_END (R134). -/
def execGrantHoldEnd (p : PortNo) (s : State) : Result := .next (s.onWorking fun m => m.grantHoldEnds p)

/-- TURNAROUND_END (R123). -/
def execTurnaroundEnd (p : PortNo) (s : State) : Result := .next (s.onWorking fun m => m.turnaroundEnds p)

/-! ### Timers of a run (R94, R97, R104, R131) -/

/-- The attempt ends NO_REPLY. -/
def Part.replyTimedOut (m : Part) (p : PortNo) : Part :=
  if (m.port p).activity = .awaiting then
    (((m.timerLapses p).raise p .replyTimeouts).fillRunFault p .noReply 0).attemptFailed p .noReply
  else m

/-- REPLY_TIMEOUT (R97). -/
def execReplyTimeout (p : PortNo) (s : State) : Result := .next (s.onWorking fun m => m.replyTimedOut p)

/-- The run ends with its last failure (Table 5-5). -/
def Part.endByLastFailure (m : Part) (p : PortNo) : Part :=
  match (m.port p).run.lastFailure with
  | none => m
  | some f => m.endRun p f.ending.outcome f.ending.reason

/-- RETRY_WAIT ends: the next attempt in RUNNING, the end of the run in STOPPING (R106). -/
def Part.retryWaitEnds (m : Part) (p : PortNo) : Part :=
  if (m.port p).activity = .retryWait then
    if m.engine = .running then m.startAttempt p else m.endByLastFailure p
  else m

/-- RETRY_WAIT_END (R104). -/
def execRetryWaitEnd (p : PortNo) (s : State) : Result := .next (s.onWorking fun m => m.retryWaitEnds p)

/-- SETTLING ends: the run ends OK. -/
def Part.settlingEnds (m : Part) (p : PortNo) : Part :=
  if (m.port p).activity = .settling then m.endRun p outcomeOk 0 else m

/-- SETTLING_END (R94). -/
def execSettlingEnd (p : PortNo) (s : State) : Result := .next (s.onWorking fun m => m.settlingEnds p)

/-- The bid timer runs while a bid waits. -/
def Part.bidTimerExpires (m : Part) (p : PortNo) : Part :=
  if (m.port p).activity = .bidding ∧ (m.port p).peer.bidPhase = .waiting then (m.timerLapses p).bidUnanswered p
  else m

/-- BID_TIMER_EXPIRY (R131). -/
def execBidTimerExpiry (p : PortNo) (s : State) : Result := .next (s.onWorking fun m => m.bidTimerExpires p)

/-- The grant lapses, and the port becomes IDLE. -/
def Part.grantTimerExpires (m : Part) (p : PortNo) : Part :=
  if (m.port p).activity = .grantedOut ∧ (m.port p).peer.grantPhase = .granted then
    (m.timerLapses p).onPort p fun x => { x with activity := .idle, peer := { x.peer with grantPhase := .none } }
  else m

/-- GRANT_TIMER_EXPIRY (R137). -/
def execGrantTimerExpiry (p : PortNo) (s : State) : Result := .next (s.onWorking fun m => m.grantTimerExpires p)

/-! ### Timers of slots, sweeps and claims -/

/-- PERIOD_EXPIRY (R30). -/
def execPeriodExpiry (n : SlotNo) (s : State) : Result := .next (s.onWorking fun m => m.periodExpired n)

/-- SWEEP_TIMER_EXPIRY (R142). -/
def execSweepTimerExpiry (s : State) : Result :=
  .next (s.onPart fun base => Part.whileWorking fun m => m.sweepTimerExpired base)

/-- CLAIM_WAIT_LIMIT_EXPIRY (R56). -/
def execClaimWaitLimitExpiry (p : PortNo) (s : State) : Result := .next (s.onWorking fun m => m.claimLimitPassed p)

end Sys2Proof.Machine
end

