-- ==== Sys2Proof/Machine/BusCommands.lean ====
section
/-! DEFINITION. The commands of the system bus: the answer of the burst in progress, and its error (R154, R161). -/

namespace Sys2Proof.Machine

/-- The memory of a state, changed by an event of the bus; not while RESET_N is asserted. -/
def State.setMemory (s : State) (mem : List Host.Cell) : State :=
  if s.window.resetAsserted then s else { s with memory := mem }

/-- The burst in progress ends in a bus error (R161): part of a write may have been taken. -/
def State.burstFails (s : State) : State :=
  (s.onPart fun _ => Part.burstFailed).setMemory (s.part.tick.memoryCut s.memory)

/-- BURST_ANSWERED (R154): the answer of a burst that is not in progress is ignored (R161, R163). -/
def execBurstAnswered (answer : BusAnswer) (s : State) : Result :=
  .next (if s.part.awaits answer.event then
    (s.onPart fun base m => m.burstDone base answer.data.toList).setMemory (s.part.memoryDone s.memory)
  else s.onPart fun _ m => m)

/-- BUS_ERROR (R161). -/
def execBusError (s : State) : Result := .next s.burstFails

/-- BUS_ANSWER_TIMEOUT (R161): the same error, 100 µs after the grant. -/
def execBusAnswerTimeout (s : State) : Result := .next s.burstFails

end Sys2Proof.Machine
end

