-- ==== Sys2Proof/Machine/DeferredCommands.lean ====
section
/-! DEFINITION. The commands that give a waiting producer room in the exchange write queue (R160): the entry is queued and
the producer goes on. -/

namespace Sys2Proof.Machine

/-- The slot manager has been given room for its first job that queues an entry, which is one of the given kind; with a
delivery tree in progress the room is the tree's. -/
def Part.giveJobRoom (m : Part) (base : Word) (kind : JobKind → Bool) : Part :=
  match m.tree, firstQueuing m.jobs with
  | [], some (j, rest) =>
    if m.givenRoom .slotManager && kind j.kind then
      (({ m with jobs := rest } : Part).endWait .slotManager).doJob base j.kind
    else m
  | _, _ => m

def JobKind.isRunEnding : JobKind → Bool
  | .runEnding _ => true
  | .postWord _ | .takeWord _ | .rejection _ _ | .expiry _ => false

/-- DEFERRED_RUN_COMPLETION (R20). -/
def execDeferredRunCompletion (s : State) : Result :=
  .next (s.onPart fun base => Part.whileWorking fun m => m.giveJobRoom base JobKind.isRunEnding)

/-- The task is a post's part word. -/
def TreeTask.isWord : TreeTask → Bool
  | .word _ => true
  | .failed _ | .left _ => false

/-- The slot manager has been given room for the next entry of a delivery tree, which is one of the given kind. -/
def Part.giveTreeRoom (m : Part) (base : Word) (kind : TreeTask → Bool) : Part :=
  match m.tree with
  | [] => m
  | t :: rest =>
    if m.givenRoom .slotManager && kind t && m.taskQueues t then
      (({ m with tree := rest } : Part).endWait .slotManager).doTask base t
    else m

/-- The slot manager has been given room for the entry of a post: the part word that begins a delivery tree, or the
entry of a post without one. -/
def Part.givePostRoom (m : Part) (base : Word) : Part :=
  match m.tree with
  | [] => m.giveJobRoom base JobKind.isPost
  | _ :: _ => m.giveTreeRoom base TreeTask.isWord

/-- DEFERRED_POST_ENTRY (R5). -/
def execDeferredPostEntry (s : State) : Result :=
  .next (s.onPart fun base => Part.whileWorking fun m => m.givePostRoom base)

/-- The claim unit has been given room for the input it waits with. -/
def Part.giveClaimRoom (m : Part) (base : Word) : Part :=
  match m.inbox with
  | [] => m
  | i :: rest =>
    if m.givenRoom .claimUnit then (({ m with inbox := rest } : Part).endWait .claimUnit).doInput base i else m

/-- DEFERRED_TABLE_RECORD_ENTRY (R59). -/
def execDeferredTableRecordEntry (s : State) : Result :=
  .next (s.onPart fun base => Part.whileWorking fun m => m.giveClaimRoom base)

/-- The sweep unit has been given room. -/
def Part.giveSweepRoom (m : Part) (base : Word) : Part :=
  if m.givenRoom .sweepUnit then ((m.endWait .sweepUnit).sweepEntry base).getD m else m

/-- DEFERRED_SWEEP_ENTRY (R145). -/
def execDeferredSweepEntry (s : State) : Result :=
  .next (s.onPart fun base => Part.whileWorking fun m => m.giveSweepRoom base)

/-- Engine control has been given room for an adoption entry. -/
def Part.giveAdoptionRoom (m : Part) (base : Word) : Part :=
  match m.loader.phase with
  | .adopting k => if m.givenRoom .engineControl then (m.endWait .engineControl).adoptEntry base k else m
  | .idle | .clearing | .setupRead _ | .adoptRead _ => m

/-- DEFERRED_ADOPTION_ENTRY (R172). -/
def execDeferredAdoptionEntry (s : State) : Result := .next (s.onPart fun base m => m.giveAdoptionRoom base)

/-- Engine control has been given room for an entry of the stop sequence. -/
def Part.giveStopRoom (m : Part) (base : Word) : Part :=
  if m.givenRoom .engineControl then ((m.endWait .engineControl).stopEntry base).getD m else m

/-- DEFERRED_STOP_SEQUENCE_ENTRY (R175). -/
def execDeferredStopSequenceEntry (s : State) : Result :=
  .next (s.onPart fun base => Part.whileWorking fun m => m.giveStopRoom base)

/-- Engine control has been given room for a report block entry of CLEAR_TALLIES. -/
def Part.giveClearRoom (m : Part) (base : Word) : Part :=
  match m.clearPending with
  | [] => m
  | p :: rest => if m.givenRoom .engineControl then (m.endWait .engineControl).clearEntry base p rest else m

/-- DEFERRED_CLEAR_TALLIES_ENTRY (R166 note 1). -/
def execDeferredClearTalliesEntry (s : State) : Result := .next (s.onPart fun base m => m.giveClearRoom base)

/-- DEFERRED_DELIVERY_ENTRY (R35). -/
def execDeferredDeliveryEntry (s : State) : Result :=
  .next (s.onPart fun base => Part.whileWorking fun m => m.giveTreeRoom base fun t => !t.isWord)

end Sys2Proof.Machine
end

