-- ==== Sys2Proof/Machine/Dispatch.lean ====
section
/-! DEFINITION. One arm for each command: the direct call of its meaning. -/

namespace Sys2Proof.Machine

def exec (i : Instr) (s : State) : Host.Outcome State Fault Refusal :=
  match i with
  | .start => Sys2Proof.Machine.execStart s
  | .stop => Sys2Proof.Machine.execStop s
  | .softReset => Sys2Proof.Machine.execSoftReset s
  | .sweepNow => Sys2Proof.Machine.execSweepNow s
  | .clearTallies => Sys2Proof.Machine.execClearTallies s
  | .baseWrite value lanes => Sys2Proof.Machine.execBaseWrite value lanes s
  | .attentionWrite value lanes => Sys2Proof.Machine.execAttentionWrite value lanes s
  | .otherRegisterWrite reg value lanes => Sys2Proof.Machine.execOtherRegisterWrite reg value lanes s
  | .pinReset => Sys2Proof.Machine.execPinReset s
  | .pinResetRelease => Sys2Proof.Machine.execPinResetRelease s
  | .characterArrival port levels edge sinh => Sys2Proof.Machine.execCharacterArrival port levels edge sinh s
  | .gapExceeded port => Sys2Proof.Machine.execGapExceeded port s
  | .gapReached port => Sys2Proof.Machine.execGapReached port s
  | .requestEndOfTransmission port => Sys2Proof.Machine.execRequestEndOfTransmission port s
  | .bidEndOfTransmission port => Sys2Proof.Machine.execBidEndOfTransmission port s
  | .grantEndOfTransmission port => Sys2Proof.Machine.execGrantEndOfTransmission port s
  | .answerEndOfTransmission port => Sys2Proof.Machine.execAnswerEndOfTransmission port s
  | .lineHoldoffEnd port => Sys2Proof.Machine.execLineHoldoffEnd port s
  | .bidHoldoffEnd port => Sys2Proof.Machine.execBidHoldoffEnd port s
  | .grantHoldEnd port => Sys2Proof.Machine.execGrantHoldEnd port s
  | .turnaroundEnd port => Sys2Proof.Machine.execTurnaroundEnd port s
  | .replyTimeout port => Sys2Proof.Machine.execReplyTimeout port s
  | .retryWaitEnd port => Sys2Proof.Machine.execRetryWaitEnd port s
  | .settlingEnd port => Sys2Proof.Machine.execSettlingEnd port s
  | .bidTimerExpiry port => Sys2Proof.Machine.execBidTimerExpiry port s
  | .grantTimerExpiry port => Sys2Proof.Machine.execGrantTimerExpiry port s
  | .periodExpiry slot => Sys2Proof.Machine.execPeriodExpiry slot s
  | .sweepTimerExpiry => Sys2Proof.Machine.execSweepTimerExpiry s
  | .claimWaitLimitExpiry port => Sys2Proof.Machine.execClaimWaitLimitExpiry port s
  | .burstAnswered answer => Sys2Proof.Machine.execBurstAnswered answer s
  | .busError => Sys2Proof.Machine.execBusError s
  | .busAnswerTimeout => Sys2Proof.Machine.execBusAnswerTimeout s
  | .deferredRunCompletion => Sys2Proof.Machine.execDeferredRunCompletion s
  | .deferredPostEntry => Sys2Proof.Machine.execDeferredPostEntry s
  | .deferredTableRecordEntry => Sys2Proof.Machine.execDeferredTableRecordEntry s
  | .deferredSweepEntry => Sys2Proof.Machine.execDeferredSweepEntry s
  | .deferredAdoptionEntry => Sys2Proof.Machine.execDeferredAdoptionEntry s
  | .deferredStopSequenceEntry => Sys2Proof.Machine.execDeferredStopSequenceEntry s
  | .deferredClearTalliesEntry => Sys2Proof.Machine.execDeferredClearTalliesEntry s
  | .deferredDeliveryEntry => Sys2Proof.Machine.execDeferredDeliveryEntry s
  | .confirmedStartEdge port => Sys2Proof.Machine.execConfirmedStartEdge port s

end Sys2Proof.Machine
end

