-- ==== Sys2Proof/Safety.lean ====
section
/-! DEFINITION. The laws of the data sheet as predicates of a state, and the classes of commands, for the statements. -/

namespace Sys2Proof.Machine

/-! ### Commands -/

/-- The commands that may change controller memory: the end of a burst, and the resets that abandon one. -/
def endsBurst : Instr → Bool
  | .burstAnswered _ | .busError | .busAnswerTimeout | .softReset | .pinReset => true
  | _ => false

/-- The commands that write a register or drive RESET_N. -/
def writesWindow : Instr → Bool
  | .start | .stop | .softReset | .sweepNow | .clearTallies | .baseWrite _ _ | .attentionWrite _ _
  | .otherRegisterWrite _ _ _ | .pinReset | .pinResetRelease => true
  | _ => false

/-- The commands that write a command code of Table 10-3, with the code. -/
def commandCode : Instr → Option (BitVec 3)
  | .start => some 1
  | .stop => some 2
  | .softReset => some 3
  | .sweepNow => some 4
  | .clearTallies => some 5
  | _ => none

/-- Table 10-3: the command is accepted in the engine state. -/
def acceptedIn (code : BitVec 3) (e : EngineState) : Bool :=
  match e with
  | .halted => code == 1 || code == 3
  | .loading => code == 2 || code == 3
  | .running => code == 2 || code == 3 || code == 4 || code == 5
  | .stopping => code == 3
  | .stopped => code == 1 || code == 3 || code == 5
  | .faulted => code == 3

/-! ### States -/

/-- The state in which an event ends whose own effect leaves the part as `m`: the work that `m` has ready is done, and a
free bus is granted. -/
def State.ends (s : State) (m : Part) : State := { s with part := Part.finish s.window.base m }

/-- No internal work is ready. -/
def Part.settled (base : Word) (m : Part) : Prop := m.settleStep base = none

/-- A character arrives at port `p` that the receiver machine takes (R68, R73): its start edge was confirmed since the
machine became active, and the port does not transmit. -/
def State.takesCharacter (s : State) (p : PortNo) (levels : Levels) : Prop :=
  s.window.resetAsserted = false ∧ s.part.engine.working = true ∧ startConfirmed levels = true ∧
    (s.part.port p).underWay ≠ 0 ∧ (s.part.port p).tx = none

/-- A good character arrives that completes the frame `f` with a good check (R75). -/
def State.completesFrame (s : State) (p : PortNo) (levels : Levels) (edge : Bool) (f : Frame) : Prop :=
  s.takesCharacter p levels ∧ s.part.arrivalStatus p levels edge = .good ∧ (s.part.port p).receiver.state = .collect ∧
    ((s.part.port p).receiver.arrive (charValue levels) .good).2 = some (.good f)

/-- A port once it has reported a GOOD frame, before what its role makes of the frame: its receiver machine is in HUNT,
the silence begins at the end of the character, frames_accepted is raised, and the line holdoff runs from the end of
this frame (R69, R75, R79, R93). What the check register and the length hold in HUNT is the model's (log 40). -/
def Part.reported (m : Part) (p : PortNo) : Port :=
  { m.port p with
    underWay := (m.port p).underWay - 1
    silence := decide ((m.port p).underWay = 1)
    receiver := { state := .hunt, buffer := [], bodyLength := none, check := 0xFFFF }
    holdoff := decide ((m.portSetup p).turnaround ≠ 0)
    tallies := { (m.port p).tallies with framesAccepted := satHalf (m.port p).tallies.framesAccepted } }

/-- The port asserts DRVEN: its receiver machine is held in HUNT with nothing collected, and its gap timer is stopped
(R72; log 40). -/
def Port.sends (x : Port) (t : Transmission) : Port :=
  { x with
    tx := some t, silence := false
    receiver := { state := .hunt, buffer := [], bodyLength := none, check := 0xFFFF } }

/-- The port enters SENDING (R93): while the line holdoff runs its request waits; with none left it is transmitted at
once. -/
def Port.entersSending (x : Port) : Port :=
  let y : Port := { x with activity := .sending }
  if x.holdoff = true then y else y.sends .request

/-- The port forms a BID of its run in BIDDING at event `event` (R129): with no holdoff left it is transmitted at once.
The BID is in holdoff while the line holdoff runs, and at the expiry of one of the port's timers while a frame is being
collected, whose report may come together with the expiry and then finds the BID in holdoff (R97, R131, R137; log 41).
-/
def Port.entersBidding (x : Port) (partner : Byte) (event : Nat) : Port :=
  let y : Port := { x with
    activity := .bidding
    answerBuffer := frameProper partner 0x21 x.run.tag []
    peer := { x.peer with bidPhase := .holdoff } }
  if x.holdoff = true ∨ (x.lapsed = some event ∧ x.receiver.state = .collect) then y
  else { y.sends .bid with peer := { y.peer with bidPhase := .transmitting } }

/-- An attempt of the port's run starts at event `event` (R92): a PEER port enters BIDDING with no bids spent (R129), a
MASTER port SENDING (R93). -/
def Port.startsAttempt (x : Port) (setup : PortSetup) (event : Nat) : Port :=
  let y : Port := { x with run := { x.run with started := x.run.started + 1, lastFailure := none }, memStep := .none }
  if setup.role = 3 then
    ({ y with peer := { y.peer with bidsSpent := 0 } } : Port).entersBidding setup.partnerStation event
  else y.entersSending

/-- The port grants the partner's BID (R134): GRANTED_OUT with the GRANT formed, which waits out the turnaround delay,
or is sent at once when that is 0. -/
def Port.grants (x : Port) (setup : PortSetup) (tag : Byte) : Port :=
  let y : Port := { x with
    activity := .grantedOut
    answerBuffer := frameProper setup.partnerStation 0x22 tag []
    peer := { x.peer with grantPhase := .pending, grantedTag := tag } }
  if setup.turnaround = 0 then
    { y with
      tx := some .grant, silence := false, peer := { y.peer with grantPhase := .transmitting }
      receiver := { state := .hunt, buffer := [], bodyLength := none, check := 0xFFFF } }
  else y

/-- The producer that a DEFERRED_ command gives room to (R160). -/
def givesRoomTo : Instr → Option Producer
  | .deferredRunCompletion | .deferredPostEntry | .deferredDeliveryEntry => some .slotManager
  | .deferredTableRecordEntry => some .claimUnit
  | .deferredSweepEntry => some .sweepUnit
  | .deferredAdoptionEntry | .deferredStopSequenceEntry | .deferredClearTalliesEntry => some .engineControl
  | _ => none

/-- There is room in the exchange write queue, and the producer `who`, waiting since event `since`, has waited longest
(R160). -/
def Part.firstInLine (m : Part) (who : Producer) (since : Nat) : Prop :=
  m.xq.length < 24 ∧ (⟨who, since⟩ : Waiter) ∈ m.waiters ∧ ∀ w ∈ m.waiters, since ≤ w.since

/-- The producer waits for room (R160). -/
def Part.isWaiting (m : Part) (who : Producer) : Prop := ∃ w ∈ m.waiters, w.who = who

/-- The exchange write queue has room that no waiting producer has a right to (R158, R160; log 10). -/
def Part.roomAtOnce (m : Part) : Prop := m.xq.length + m.waiters.length < 24

/-- The next step `next` of a producer whose entry is to be queued (R160): with room at once it leaves the part as `t`;
without, the producer begins to wait, from event `since` on; while it waits it does not go on by itself. -/
def Part.queuesOrWaits (m : Part) (who : Producer) (since : Nat) (next : Option Part) (t : Part) : Prop :=
  (¬m.isWaiting who → m.roomAtOnce → next = some t) ∧
  (¬m.isWaiting who → ¬m.roomAtOnce → next = some { m with waiters := m.waiters ++ [⟨who, since⟩] }) ∧
  (m.isWaiting who → next = none)

/-- The grant rule (R54) has taken a table's list from `l` to `l'`: passed from the head, a waiting claim is granted
when it conflicts with no claim ahead of it and with no granted claim behind it. -/
def grantsByRule (bits : Bool) (l l' : List Claim) : Prop :=
  l'.length = l.length ∧
    ∀ (i : Nat) (c : Claim), l[i]? = some c → l'[i]? = some { c with
      granted := c.granted || ((l.take i).all (fun d => !conflict bits c d) &&
        (l.drop (i + 1)).all fun d => !d.granted || !conflict bits c d) }

/-- A claimant's claim is granted in `l'` and was not in `l`. -/
def becomesGranted (l l' : List Claim) (who : Claimant) : Prop :=
  (∃ c ∈ l', c.claimant = who ∧ c.granted = true) ∧ ∀ c ∈ l, c.claimant = who → c.granted = false

/-- The transaction of port `p`, whose claim has been removed at its wait limit, takes the part from `m` to `t` by its
end (R56, Table 3-7). A service is refused BUSY, with its replay memory emptied and its refusal held in TURNAROUND or
sent, and a broadcast only ends (R112, R122 to R124); a run, in PREPARING or DEPOSITING, ends CLAIM_TIMEOUT, with its
ending handed to the slot manager (R105). The fault record holds claim timeout. What the check register and the length
hold in HUNT is the model's (log 40). -/
def Part.timesOut (m t : Part) (p : PortNo) : Prop :=
  let x : Port := m.port p
  let v : Service := x.service
  let r : Run := x.run
  (x.activity = .serving →
    let y : Port := { x with
      fault := ⟨.claimTimeout, 0xFF, v.station, v.kind, v.tag, 6, m.sweep.count⟩
      tallies := { x.tallies with refusalsSent := satHalf x.tallies.refusalsSent }
      memStep := .none }
    let z : Port := { y with
      answerBuffer := frameProper v.station 0x7E v.tag [v.kind, 6]
      replay := none
      service := { v with result := .refusal 6 } }
    (v.broadcast = true → t = m.setPort p { y with activity := .idle }) ∧
    (v.broadcast = false → x.answerDelay = true → t = m.setPort p { z with activity := .turnaround }) ∧
    (v.broadcast = false → x.answerDelay = false → t = m.setPort p { z with
      activity := .replying, tx := some .answer, silence := false
      receiver := { state := .hunt, buffer := [], bodyLength := none, check := 0xFFFF } })) ∧
  ∀ w, x.activity = .preparing ∨ x.activity = .depositing → r.work = some w →
    t = { m.setPort p { x with
        fault := ⟨.claimTimeout, BitVec.ofNat 8 w.slot.val, w.order.station, w.order.kind, r.tag, 0, m.sweep.count⟩
        activity := .idle, memStep := .none, run := { r with ending := some ⟨0x14, 0⟩ } } with
      jobs := m.jobs ++ [⟨.runEnding p, m.eventNo⟩] }

/-! ### Laws -/

/-- Outside RUNNING and STOPPING no dispatch queue holds an entry, no claim list holds a claim, and on every port DRVEN
is deasserted and the receiver machine is inactive and empty (R73, R175); no port has an access outstanding. -/
def Part.quiet (m : Part) : Prop :=
  m.engine.working = false →
    (∀ p, m.queue p = [] ∧ (m.port p).tx = none ∧ (m.port p).receiver.state = .inactive ∧
      (m.port p).receiver.buffer = [] ∧ (m.port p).access = none) ∧
    ∀ t, m.claimList t = []

/-- No two granted claims in one claim list conflict (R54). -/
def Part.grantsAgree (m : Part) : Prop :=
  ∀ t, (m.claimList t).Pairwise fun a b =>
    a.granted = true → b.granted = true → conflict (m.tableEntry t).isBits a b = false

/-- While a port transmits, its receiver machine is held in HUNT with nothing collected, and its gap timer is stopped
(R72). -/
def Part.heldInHunt (m : Part) : Prop :=
  ∀ p, (m.port p).tx ≠ none →
    (m.port p).receiver.state = .hunt ∧ (m.port p).receiver.buffer = [] ∧ (m.port p).silence = false

/-- The fault code is NONE exactly outside FAULTED (R167, R176), and a LOADING is under way only in LOADING. -/
def Part.faultCodeAgrees (m : Part) : Prop :=
  (m.engine = .faulted ↔ m.faultCode ≠ .none) ∧ (m.loader.phase ≠ .idle → m.engine = .loading)

/-- The exchange write queue holds at most 24 entries (R158). -/
def Part.queueBounded (m : Part) : Prop := m.xq.length ≤ 24

/-- Sweep-pending is clear whenever no sweep is in progress (R143). -/
def Part.pendingLaw (m : Part) : Prop := m.sweep.phase = .idle → m.sweep.pending = false

/-- While the engine works, the presence state is ABSENT only while the silence limit is non-zero, and the silence count
then equals it (R148, R149). -/
def Part.presenceLaw (m : Part) : Prop :=
  m.engine.working = true → m.sweep.presence = .absent →
    m.setup.global.silenceLimit ≠ 0 ∧ m.sweep.silence = m.setup.global.silenceLimit

/-- BASE is aligned to 256 bytes (R165). -/
def State.baseAligned (s : State) : Prop := s.window.base.extractLsb' 0 8 = 0

end Sys2Proof.Machine
end

