-- ==== Sys2Proof/WellFormed.lean ====
section
/-! DEFINITION. Which terms of `Instr` stand for a command of the part: a register write writes at least one byte, and
a write of one of the codes 1 to 5 to CONTROL is the command's own row; a character has a confirmed start bit. Every
other term is well formed by its type. -/

namespace Sys2Proof

/-- A register write drives at least one byte lane (R164). -/
def lanesDriven (lanes : Lanes) : Bool := lanes != 0

/-- OTHER_REGISTER_WRITE is a write to STATUS or FAULT_ADDRESS, or one to CONTROL of a code other than 1 to 5 (R164). -/
def otherRegisterWriteOk (reg : OtherRegister) (value : Word) (lanes : Lanes) : Bool :=
  match reg with
  | .control => !isCommandCode (laneValue value lanes)
  | .status => true
  | .faultAddress => true

def Instr.wellFormed (i : Instr) : Bool :=
  match i with
  | .baseWrite _ lanes => lanesDriven lanes
  | .attentionWrite _ lanes => lanesDriven lanes
  | .otherRegisterWrite reg value lanes => lanesDriven lanes && otherRegisterWriteOk reg value lanes
  | .start | .stop | .softReset | .sweepNow | .clearTallies | .pinReset | .pinResetRelease => true
  | .characterArrival _ levels _ _ => startConfirmed levels
  | .gapExceeded _ | .gapReached _ | .confirmedStartEdge _ => true
  | .requestEndOfTransmission _ | .bidEndOfTransmission _ | .grantEndOfTransmission _
  | .answerEndOfTransmission _ => true
  | .lineHoldoffEnd _ | .bidHoldoffEnd _ | .grantHoldEnd _ | .turnaroundEnd _ | .replyTimeout _ | .retryWaitEnd _
  | .settlingEnd _ | .bidTimerExpiry _ | .grantTimerExpiry _ | .claimWaitLimitExpiry _ => true
  | .periodExpiry _ | .sweepTimerExpiry => true
  | .burstAnswered _ | .busError | .busAnswerTimeout => true
  | .deferredRunCompletion | .deferredPostEntry | .deferredTableRecordEntry | .deferredSweepEntry
  | .deferredAdoptionEntry | .deferredStopSequenceEntry | .deferredClearTalliesEntry | .deferredDeliveryEntry => true

end Sys2Proof
end

