-- ==== Sys2Proof/Certificates/Slice0/Obligations.lean ====
section
/-! DEFINITION. The statements about the model. -/

open Sys2Proof Sys2Proof.Machine

/-! ### Steps, answers and frames -/

/-- The command at the front of the queue is the one a step runs, on the state with the rest waiting. Commands reach
the block through this queue alone (log 30). -/
def Obligations.StepTakesFrontCommand : Prop :=
  ∀ (c : Instr) (rest : List Instr) (s : State),
    s.pending = c :: rest → step s = exec c { s with pending := rest }

/-- No command ends in a fault or a refusal, and none touches the queue. A command that finds nothing to act on
changes nothing (log 7). -/
def Obligations.EveryCommandAnswersNext : Prop :=
  ∀ (c : Instr) (s : State), ∃ t, exec c s = .next t ∧ t.pending = s.pending

/-- What follows a command's own effect at the same event never changes the adopted setup, the setup error or the fault,
which START, STOP, the end of an access and a reset alone write (R45, R167, R172, R176). It is the internal work that is
ready, piece by piece, and then the grant of the bus (R155). In RUNNING and STOPPING the pieces are the claim unit's
next input, the next task of a delivery tree, the resumption of a suspended run (R136), before any head-taking (R42),
each by port, the slot manager's next job, so that a free port takes its head before the next of several held
completions and expiries is taken (R35, R42), the sweep's next step, and the stop sequence (R175); in the other states
the entries of CLEAR_TALLIES (R166 note 1) and of the adoption (R172). The work goes on with the first piece that there
is, and it is settled exactly when there is none. The split of an event into own effect, internal work and grant, the
order of the pieces of different blocks, the place of the completions and expiries held by a delivery tree before a post
that the sweep handed over meanwhile, and the bound of 4096 on their number are the model's (logs 11, 45, 27). -/
def Obligations.SettledEventOnlyGrantsBus : Prop :=
  ∀ (m : Part) (base : Word),
    (Part.finish base m).setup = m.setup ∧ (Part.finish base m).setupError = m.setupError ∧
    (Part.finish base m).faultCode = m.faultCode ∧ (Part.finish base m).faultAddress = m.faultAddress ∧
    (Part.finish base m).eventNo = m.eventNo ∧
    (m.settled base → Part.finish base m = m.grantBus) ∧
    Part.finish base m = (Part.settle base 4096 m).grantBus ∧
    let pieces : List (Option Part) :=
      if m.engine = .running ∨ m.engine = .stopping then
        [m.claimStep base, m.treeStep base, m.resumeStep 0, m.resumeStep 1, m.resumeStep 2, m.resumeStep 3,
          m.headStep 0, m.headStep 1, m.headStep 2, m.headStep 3, m.jobStep base, m.sweepStep base, m.stopStep base]
      else [m.clearStep base, m.adoptStep base]
    (m.settled base ↔ ∀ x ∈ pieces, x = none) ∧
    (m.settled base → ∀ bound, Part.settle base bound m = m) ∧
    ∀ (before after : List (Option Part)) (t : Part), pieces = before ++ some t :: after →
      (∀ x ∈ before, x = none) → ∀ bound, Part.settle base (bound + 1) m = Part.settle base bound t

/-- The model's record of controller memory, which holds the bytes of the part's own writes (log 1, DESIGN CHOICE: host
software may change any byte at any time), changes only at the end of a burst or at a reset that abandons one; BASE,
CONTROL, the flag and the enables change only at register writes and at RESET_N. -/
def Obligations.MemoryAndWindowChangeOnlyAtTheirCommands : Prop :=
  (∀ (c : Instr) (s t : State), c.wellFormed = true → endsBurst c = false → exec c s = .next t → t.memory = s.memory) ∧
  ∀ (c : Instr) (s t : State), writesWindow c = false → exec c s = .next t → t.window = s.window

/-- An answered burst writes exactly its bytes; every other address reads as before. An answer to a burst that is not in
progress, because it has ended in a bus error or been abandoned, is ignored (R161, R163): memory, the bus and every
access stay as they are. The answer names its burst by the event of the grant (log 32). -/
def Obligations.AnsweredBurstWritesExactlyItsBytes : Prop :=
  (∀ (s : State) (answer : BusAnswer) (b : Burst), s.window.resetAsserted = false → s.part.bus = some b →
    b.event = answer.event →
    ∃ t, exec (.burstAnswered answer) s = .next t ∧
      (∀ (i : Nat) (h : i < (s.part.burstBytes b).length),
        Memory.read t.memory (b.addr + i) = some ((s.part.burstBytes b)[i])) ∧
      ∀ a, (a < b.addr ∨ b.addr + (s.part.burstBytes b).length ≤ a) → Memory.read t.memory a = Memory.read s.memory a) ∧
  ∀ (s : State) (answer : BusAnswer), s.window.resetAsserted = false →
    (∀ b, s.part.bus = some b → b.event ≠ answer.event) →
    exec (.burstAnswered answer) s = .next (s.ends s.part.tick)

/-- A burst that fails or is abandoned leaves each of its bytes old or new, and every other address as before; with no
burst in progress memory is unchanged. Which bytes the bus had taken is a free value (log 3). -/
def Obligations.CutBurstLeavesOldOrNewBytes : Prop :=
  ∀ (s : State) (c : Instr), c = .busError ∨ c = .busAnswerTimeout ∨ c = .softReset ∨ c = .pinReset →
    s.window.resetAsserted = false →
    ∃ t, exec c s = .next t ∧
      (s.part.bus = none → t.memory = s.memory) ∧
      ∀ b, s.part.bus = some b →
        (∀ (i : Nat) (h : i < (s.part.burstBytes b).length),
          Memory.read t.memory (b.addr + i) = some ((s.part.burstBytes b)[i]) ∨
            Memory.read t.memory (b.addr + i) = Memory.read s.memory (b.addr + i)) ∧
        ∀ a, (a < b.addr ∨ b.addr + (s.part.burstBytes b).length ≤ a) →
          Memory.read t.memory a = Memory.read s.memory a

/-! ### The register window -/

/-- Table 10-3: a command of CONTROL in a state that refuses it sets the flag and changes nothing else; an accepted
one reads back from CONTROL, clears the flag and keeps BASE, and all but RESET keep the enables. -/
def Obligations.CommandsAreAcceptedOrRefused : Prop :=
  ∀ (c : Instr) (code : BitVec 3) (s : State), commandCode c = some code → s.window.resetAsserted = false →
    (acceptedIn code s.part.engine = false →
      exec c s = .next { s with window := { s.window with refused := true } }) ∧
    (acceptedIn code s.part.engine = true →
      ∃ t, exec c s = .next t ∧ readControl t = code.zeroExtend 32 ∧ t.window.refused = false ∧
        t.window.base = s.window.base ∧ (code ≠ 3 → t.window.enables = s.window.enables))

/-- START in HALTED or STOPPED: LOADING, setup error 0, and the read of the global setup handed to the memory port, or
left waiting while entries of CLEAR_TALLIES are to be queued (R166 note 1). The round-robin pointer stays where it is
until the adoption, as the model reads R155 with R168 and R172 (log 34, DEDUCED). -/
def Obligations.StartBeginsLoading : Prop :=
  ∀ s : State, s.window.resetAsserted = false → s.part.engine = .halted ∨ s.part.engine = .stopped →
    (s.part.clearPending = [] →
      exec .start s = .next { s with
        window := { s.window with control := 1, refused := false }
        part := ({ s.part.tick with
          engine := .loading, setupError := 0
          loader := { Loader.reset with phase := .setupRead 0 }
          sweepAccess := some (.read (areaAddress s.window.base 0x040) 32 []) } : Part).grantBus }) ∧
    (s.part.clearPending ≠ [] →
      exec .start s = .next { s.ends { s.part.tick with
          engine := .loading, setupError := 0, loader := { Loader.reset with phase := .clearing } } with
        window := { s.window with control := 1, refused := false } })

/-- STOP in RUNNING: STOPPING, and a PEER port in GRANTED_OUT whose GRANT is not being transmitted becomes IDLE (R139,
R174). STOP in LOADING: held once the adoption reads have ended (R172); before, the load is abandoned, the engine
enters STOPPED with error code 0 and the STOPPED cause, and the adopted copies keep their values (R168). Entries of
CLEAR_TALLIES that are still to be queued stay to be queued (R166 note 1): while engine control waits for their room the
event ends with all of them left, and the load that waited for them is abandoned all the same. The model leaves the
ports as they are and marks the burst of the abandoned read (logs 21, 26). -/
def Obligations.StopBeginsStoppingOrEndsLoading : Prop :=
  (∀ s : State, s.window.resetAsserted = false → s.part.engine = .running →
    exec .stop s = .next { s.ends { s.part.tick with
        engine := .stopping
        ports := s.part.ports.map fun x =>
          if x.activity = .grantedOut ∧ x.peer.grantPhase ≠ .transmitting then
            { x with activity := .idle, peer := { x.peer with grantPhase := .none } }
          else x } with
      window := { s.window with control := 2, refused := false } }) ∧
  ∀ s : State, s.window.resetAsserted = false → s.part.engine = .loading →
    let abandoned : Part := { s.part.tick with
      engine := .stopped, setupError := 0, causes := s.part.causes ||| 8, loader := Loader.reset, sweepAccess := none
      bus := s.part.bus.map fun b => if b.who = .sweep then { b with discarded := true } else b }
    ((∃ k, s.part.loader.phase = .adopting k) →
      exec .stop s = .next { s.ends { s.part.tick with loader := { s.part.loader with stopHeld := true } } with
        window := { s.window with control := 2, refused := false } }) ∧
    ((¬ ∃ k, s.part.loader.phase = .adopting k) →
      exec .stop s = .next { s.ends abandoned with window := { s.window with control := 2, refused := false } }) ∧
    ((¬ ∃ k, s.part.loader.phase = .adopting k) → s.part.clearPending ≠ [] → s.part.isWaiting .engineControl →
      exec .stop s = .next { s with
        part := abandoned.grantBus, window := { s.window with control := 2, refused := false } }) ∧
    ((¬ ∃ k, s.part.loader.phase = .adopting k) → s.part.clearPending = [] →
      ∃ t, exec .stop s = .next t ∧ t.window = { s.window with control := 2, refused := false } ∧
        t.part.engine = .stopped ∧ t.part.setupError = 0 ∧ t.part.causes = s.part.causes ||| 8 ∧
        t.part.loader = Loader.reset ∧ t.part.sweepAccess = none ∧ t.part.setup = s.part.setup ∧
        t.part.slots = s.part.slots ∧ t.part.tables = s.part.tables ∧ t.part.sweep = s.part.sweep ∧
        t.part.ports = s.part.ports ∧ t.part.xq = s.part.xq ∧ t.memory = s.memory ∧
        ∀ b, s.part.bus = some b →
          t.part.bus = some (if b.who = .sweep then { b with discarded := true } else b))

/-- SOFT_RESET: every block at its reset value, BASE kept, CONTROL 3 (R177, Table 10-2). Reset values that no chapter
gives are the model's (log 24, DESIGN CHOICE), the bus is free after the reset in the model (log 20), and the model's
own count of events goes on (log 28). -/
def Obligations.SoftResetReturnsEveryBlock : Prop :=
  ∀ s : State, s.window.resetAsserted = false →
    ∃ t, exec .softReset s = .next t ∧
      t.window = ⟨s.window.base, 3, false, 0, false⟩ ∧ t.pending = s.pending ∧
      t.part = { Part.reset with eventNo := s.part.eventNo + 1 } ∧
      readBase t = s.window.base ∧ readControl t = 3 ∧ readStatus t = 0 ∧ readAttention t = 0 ∧
      readFaultAddress t = 0 ∧ intPin t = false ∧ ∀ p, (t.part.port p).drven = false

/-- PIN_RESET: every block at its reset value, BASE and CONTROL 0 (R177, Table 10-2). While RESET_N is asserted every
other command has no effect (R164, R177); PIN_RESET_RELEASE changes the level alone. Reset values that no chapter gives,
the free bus and the count of events are as for SOFT_RESET the model's (logs 24, 20, 28). -/
def Obligations.PinResetReturnsEveryBlockAndMasksCommands : Prop :=
  (∀ s : State,
    ∃ t, exec .pinReset s = .next t ∧
      t.window = ⟨0, 0, false, 0, true⟩ ∧ t.pending = s.pending ∧
      t.part = { Part.reset with eventNo := s.part.eventNo + 1 } ∧
      readBase t = 0 ∧ readControl t = 0 ∧ readStatus t = 0 ∧ readAttention t = 0 ∧ readFaultAddress t = 0 ∧
      intPin t = false ∧ ∀ p, (t.part.port p).drven = false) ∧
  (∀ (c : Instr) (s : State), s.window.resetAsserted = true → c ≠ .pinReset → c ≠ .pinResetRelease →
    exec c s = .next s) ∧
  ∀ s : State, exec .pinResetRelease s = .next { s with window := { s.window with resetAsserted := false } }

/-- SWEEP_NOW in RUNNING (Table 8-3): a sweep starts at once with the read of the host mark and the timer running, or
sweep-pending is set. SWEEP_TIMER_EXPIRY (Table 8-3): a sweep starts, or sweep-pending is set, or the overrun count is
raised, stopping at 4294967295; once the stop sequence has begun no sweep starts (R175). -/
def Obligations.SweepsStartOrAreMarkedPending : Prop :=
  (∀ s : State, s.window.resetAsserted = false → s.part.engine = .running →
    (s.part.sweep.phase = .idle →
      exec .sweepNow s = .next { s.ends { s.part.tick with
          sweep := { s.part.sweep with phase := .mark, timer := true }
          sweepAccess := some (.read (areaAddress s.window.base 0) 4 []) } with
        window := { s.window with control := 4, refused := false } }) ∧
    (s.part.sweep.phase ≠ .idle →
      exec .sweepNow s = .next { s.ends { s.part.tick with sweep := { s.part.sweep with pending := true } } with
        window := { s.window with control := 4, refused := false } })) ∧
  ∀ s : State, s.window.resetAsserted = false → s.part.engine.working = true → s.part.sweep.timer = true →
    (s.part.sweep.phase = .idle → s.part.stopSequence = none →
      exec .sweepTimerExpiry s = .next (s.ends { s.part.tick with
        sweep := { s.part.sweep with phase := .mark, timer := true }
        sweepAccess := some (.read (areaAddress s.window.base 0) 4 []) })) ∧
    (s.part.sweep.phase = .idle → s.part.stopSequence ≠ none →
      exec .sweepTimerExpiry s = .next (s.ends s.part.tick)) ∧
    (s.part.sweep.phase ≠ .idle → s.part.sweep.pending = false →
      exec .sweepTimerExpiry s =
        .next (s.ends { s.part.tick with sweep := { s.part.sweep with pending := true } })) ∧
    (s.part.sweep.phase ≠ .idle → s.part.sweep.pending = true →
      exec .sweepTimerExpiry s = .next (s.ends { s.part.tick with sweep := { s.part.sweep with
        overruns := if s.part.sweep.overruns = 0xFFFFFFFF then 0xFFFFFFFF else s.part.sweep.overruns + 1 } }))

/-- CLEAR_TALLIES (R166 note 1, R181): every tally 0 and every fault record empty; in STOPPED four report block
entries are to be queued behind those still to come. -/
def Obligations.ClearTalliesEmptiesEveryPort : Prop :=
  ∀ s : State, s.window.resetAsserted = false →
    (s.part.engine = .running →
      exec .clearTallies s = .next { s.ends { s.part.tick with
          ports := s.part.ports.map fun x => { x with tallies := Tallies.zero, fault := FaultRecord.empty } } with
        window := { s.window with control := 5, refused := false } }) ∧
    (s.part.engine = .stopped →
      exec .clearTallies s = .next { s.ends { s.part.tick with
          ports := s.part.ports.map fun x => { x with tallies := Tallies.zero, fault := FaultRecord.empty }
          clearPending := s.part.clearPending ++ [0, 1, 2, 3] } with
        window := { s.window with control := 5, refused := false } })

/-- BASE_WRITE (R164, R165): accepted in HALTED and STOPPED, bits 7..0 written as 0, bytes not written taken as 0;
refused in every other state. -/
def Obligations.BaseWriteIsAlignedOrRefused : Prop :=
  ∀ (s : State) (value : Word) (lanes : Lanes), s.window.resetAsserted = false →
    (s.part.engine = .halted ∨ s.part.engine = .stopped →
      exec (.baseWrite value lanes) s = .next { s with window := { s.window with
        base := laneValue value lanes &&& 0xFFFFFF00, refused := false } }) ∧
    (s.part.engine = .loading ∨ s.part.engine = .running ∨ s.part.engine = .stopping ∨ s.part.engine = .faulted →
      exec (.baseWrite value lanes) s = .next { s with window := { s.window with refused := true } })

/-- R152: what a read of ATTENTION returns, what a write clears and takes, in every engine state, and what a set that
is taken after a write leaves. A write in fewer byte lanes acts as the 32-bit write whose other bytes are 0 (R164). -/
def Obligations.AttentionReadsAndWrites : Prop :=
  (∀ (s : State) (i : Nat), (readAttention s).getLsbD i =
    if i < 5 then s.part.causes.getLsbD i
    else if 16 ≤ i ∧ i < 21 then s.window.enables.getLsbD (i - 16) else false) ∧
  (∀ (s : State) (value : Word) (lanes : Lanes), s.window.resetAsserted = false →
    ∃ (causes enables : BitVec 5),
      exec (.attentionWrite value lanes) s = .next { s with
        window := { s.window with enables := enables }, part := { s.part with causes := causes } } ∧
      ∀ i, i < 5 →
        causes.getLsbD i = (s.part.causes.getLsbD i && !(value.getLsbD i && lanes.getLsbD 0)) ∧
        enables.getLsbD i = (value.getLsbD (i + 16) && lanes.getLsbD 2)) ∧
  ∀ (m : Part) (c : Cause), (m.setCause c).causes = m.causes ||| c.bit

/-- R153: INT is the level of causes AND enables; resets clear both; START changes neither; the entries to STOPPED and
to FAULTED set their own cause alone. -/
def Obligations.IntFollowsCausesAndEnables : Prop :=
  (∀ s : State, intPin s = true ↔ ∃ i, i < 5 ∧ s.part.causes.getLsbD i = true ∧ s.window.enables.getLsbD i = true) ∧
  (∀ s t : State, exec .pinReset s = .next t →
    t.part.causes = 0 ∧ t.window.enables = 0 ∧ intPin t = false) ∧
  (∀ s t : State, s.window.resetAsserted = false → exec .softReset s = .next t →
    t.part.causes = 0 ∧ t.window.enables = 0 ∧ intPin t = false) ∧
  (∀ s t : State, exec .start s = .next t → t.part.causes = s.part.causes ∧ t.window.enables = s.window.enables) ∧
  (∀ m : Part, m.enterStopped.causes = m.causes ||| Cause.stopped.bit) ∧
  ∀ (m : Part) (code : FaultCode) (addr : Nat), (m.enterFaulted code addr).causes = m.causes ||| Cause.fault.bit

/-- OTHER_REGISTER_WRITE (R164, R187): no effect on STATUS and FAULT_ADDRESS; a code other than 1 to 5 is
refused in every engine state. STATUS (R167, Table 12-14) shows the five fields, with the codes of R186, and 0
in every other bit. -/
def Obligations.OtherRegisterWritesAndStatusFields : Prop :=
  (∀ (s : State) (value : Word) (lanes : Lanes), s.window.resetAsserted = false →
    exec (.otherRegisterWrite .status value lanes) s = .next s ∧
    exec (.otherRegisterWrite .faultAddress value lanes) s = .next s ∧
    (isCommandCode (laneValue value lanes) = false →
      exec (.otherRegisterWrite .control value lanes) s =
        .next { s with window := { s.window with refused := true } })) ∧
  ∀ s : State,
    (readStatus s).extractLsb' 0 4 = (match s.part.engine with
      | .halted => 0
      | .loading => 1
      | .running => 2
      | .stopping => 3
      | .stopped => 4
      | .faulted => 5) ∧
    (readStatus s).extractLsb' 4 4 = 0 ∧
    (readStatus s).extractLsb' 8 4 = s.part.setupError ∧
    (readStatus s).extractLsb' 12 4 = 0 ∧
    ((readStatus s).getLsbD 16 = true ↔ s.part.sweep.presence = .absent) ∧
    ((readStatus s).getLsbD 17 = true ↔ s.window.refused = true) ∧
    (readStatus s).extractLsb' 18 6 = 0 ∧
    (readStatus s).extractLsb' 24 2 = (match s.part.faultCode with
      | .none => 0
      | .loadRead => 1
      | .sweepRead => 2
      | .exchangeWrite => 3) ∧
    (readStatus s).extractLsb' 26 6 = 0

/-! ### The field lines -/

/-- R74: in HUNT a good 0xC5 begins a frame; every other arrival leaves the machine in HUNT, unstored and unreported;
silence has no effect. An arrival ends the silence, which begins again at its end unless the next character is already
under way (R69). An arrival with no character under way is ignored, which is how the model has the characters of R73
that began before the receiver machine was active (log 33, DEDUCED). What the length holds at the entry to COLLECT is
the model's (log 40). -/
def Obligations.HuntTakesOnlyGoodLead : Prop :=
  ∀ (s : State) (p : PortNo) (levels : Levels) (edge sinh : Bool), s.takesCharacter p levels →
    (s.part.port p).receiver.state = .hunt →
    let x : Port := { s.part.port p with
      underWay := (s.part.port p).underWay - 1, silence := decide ((s.part.port p).underWay = 1) }
    (s.part.arrivalStatus p levels edge = .good → charValue levels = 0xC5 →
      exec (.characterArrival p levels edge sinh) s = .next (s.ends (s.part.tick.setPort p
        { x with receiver := { state := .collect, buffer := [], bodyLength := none, check := 0xFFFF } }))) ∧
    (¬(s.part.arrivalStatus p levels edge = .good ∧ charValue levels = 0xC5) →
      exec (.characterArrival p levels edge sinh) s = .next (s.ends (s.part.tick.setPort p x))) ∧
    exec (.gapExceeded p) s = .next (s.ends s.part.tick) ∧
    exec (.gapReached p) s = .next (s.ends s.part.tick) ∧
    ∀ m : Part, (m.port p).underWay = 0 → m.character p levels edge sinh = m

/-- R76: an arrival with an error, on any byte, and a length byte above 248 spoil the frame: the bytes are discarded,
the report is SPOILED and the machine is in DISCARD. -/
def Obligations.SpoiledFrameIsDiscarded : Prop :=
  ∀ (r : Receiver) (v : Byte) (st : CharStatus), r.state = .collect →
    st ≠ .good ∨ (r.buffer.length = 3 ∧ 248 < v.toNat) →
    (r.arrive v st).1.state = .discard ∧ (r.arrive v st).1.buffer = [] ∧ (r.arrive v st).2 = some .spoiled

/-- R75: in COLLECT each good character is stored at the next place, and a covered byte is taken into the check. The
first four bytes are station, kind, tag and length; a length byte of 0 to 248 fixes the length of the frame. At the last
byte the two check bytes, taken low byte first, are compared with the check register: equal gives GOOD, unequal
BAD_CHECK, and the machine is in HUNT. What the check register and the length hold there is the model's (log 40). -/
def Obligations.CollectStoresAndReports : Prop :=
  ∀ (r : Receiver) (v : Byte), r.state = .collect →
    (r.bodyLength = none → r.buffer.length < 3 →
      r.arrive v .good = ({ r with buffer := r.buffer ++ [v], check := crcByte r.check v }, none)) ∧
    (r.bodyLength = none → r.buffer.length = 3 → v.toNat ≤ 248 →
      r.arrive v .good =
        ({ r with buffer := r.buffer ++ [v], bodyLength := some v.toNat, check := crcByte r.check v }, none)) ∧
    ∀ n, r.bodyLength = some n → 4 ≤ r.buffer.length →
      (r.buffer.length + 1 < 6 + n →
        r.arrive v .good = ({ r with
          buffer := r.buffer ++ [v]
          check := if r.buffer.length < 4 + n then crcByte r.check v else r.check }, none)) ∧
      (r.buffer.length + 1 = 6 + n →
        r.arrive v .good = (⟨.hunt, [], none, 0xFFFF⟩, some
          (if halfAt (r.buffer ++ [v]) (4 + n) = r.check then .good (Frame.ofBuffer (r.buffer ++ [v]) n)
          else .badCheck)))

/-- A confirmed start edge ends the silence, and a character is under way (R68, R69); at a port that transmits, whose gap
timer is stopped and whose receiver machine is held in HUNT, the character is under way all the same, and the
transmission goes on (R72); at an inactive receiver machine it has no effect (R73). In COLLECT, when the silence exceeds
the gap limit, the bytes are discarded, ABANDONED is reported (dropped_gap is raised) and the machine is in HUNT; a port
that does not await an answer is not changed further (R77, R79). That the model counts the characters under way is log
33 (DEDUCED); what the check register and the length hold in HUNT is the model's (log 40). -/
def Obligations.SilenceEndsAtEdgeAndAbandonsAtGap : Prop :=
  ∀ (s : State) (p : PortNo), s.window.resetAsserted = false → s.part.engine.working = true →
    ((s.part.port p).receiver.state ≠ .inactive →
      exec (.confirmedStartEdge p) s = .next (s.ends (s.part.tick.setPort p
        { s.part.port p with underWay := (s.part.port p).underWay + 1, silence := false }))) ∧
    ((s.part.port p).receiver.state = .inactive →
      exec (.confirmedStartEdge p) s = .next (s.ends s.part.tick)) ∧
    ((s.part.port p).tx = none → (s.part.port p).receiver.state = .collect → (s.part.port p).silence = true →
      (s.part.port p).activity ≠ .awaiting →
      exec (.gapExceeded p) s = .next (s.ends (s.part.tick.setPort p
        { s.part.port p with
          receiver := { state := .hunt, buffer := [], bodyLength := none, check := 0xFFFF }
          tallies := { (s.part.port p).tallies with droppedGap := satHalf (s.part.port p).tallies.droppedGap } })))

/-- R78: in DISCARD every arrival is ignored, and the silence begins again at its end unless the next character is
already under way (R69); when the silence reaches the gap limit the machine is in HUNT; no report, no tally. What the
check register and the length hold in HUNT is the model's (log 40). -/
def Obligations.DiscardSkipsUntilSilence : Prop :=
  (∀ (s : State) (p : PortNo) (levels : Levels) (edge sinh : Bool), s.takesCharacter p levels →
    (s.part.port p).receiver.state = .discard →
    exec (.characterArrival p levels edge sinh) s = .next (s.ends (s.part.tick.setPort p { s.part.port p with
      underWay := (s.part.port p).underWay - 1, silence := decide ((s.part.port p).underWay = 1) }))) ∧
  ∀ (s : State) (p : PortNo), s.window.resetAsserted = false → s.part.engine.working = true →
    (s.part.port p).receiver.state = .discard → (s.part.port p).tx = none → (s.part.port p).silence = true →
    exec (.gapReached p) s = .next (s.ends (s.part.tick.setPort p { s.part.port p with
      receiver := { state := .hunt, buffer := [], bodyLength := none, check := 0xFFFF } }))

/-- A GOOD frame that changes nothing of the port's work: at a MASTER port that does not await an answer it is counted
foreign (R98); at a RESPONDER port that serves, or in STOPPING, an addressed request is counted dropped_busy (R109). In
both cases frames_accepted is raised first (R79). At a port that does not await an answer a spoiled frame, by an arrival
with an error or a length byte above 248, raises dropped_format alone, and a frame whose check bytes differ from the
check register raises dropped_check alone (R75, R76, R79, R96; Table 6-3 note 2). The check register and the length in
HUNT and DISCARD are the model's (log 40). -/
def Obligations.UnwantedFramesAreOnlyCounted : Prop :=
  (∀ (s : State) (p : PortNo) (levels : Levels) (edge sinh : Bool), s.takesCharacter p levels →
    (s.part.port p).receiver.state = .collect → (s.part.port p).activity ≠ .awaiting →
    let r := (s.part.port p).receiver
    let v := charValue levels
    let good : Prop := s.part.arrivalStatus p levels edge = .good
    let x : Port := { s.part.port p with
      underWay := (s.part.port p).underWay - 1, silence := decide ((s.part.port p).underWay = 1) }
    (¬good ∨ (r.buffer.length = 3 ∧ 248 < v.toNat) →
      exec (.characterArrival p levels edge sinh) s = .next (s.ends (s.part.tick.setPort p
        { x with
          receiver := { state := .discard, buffer := [], bodyLength := none, check := 0xFFFF }
          tallies := { x.tallies with droppedFormat := satHalf x.tallies.droppedFormat } }))) ∧
    ∀ n, r.bodyLength = some n → r.buffer.length + 1 = 6 + n → good → halfAt (r.buffer ++ [v]) (4 + n) ≠ r.check →
      exec (.characterArrival p levels edge sinh) s = .next (s.ends (s.part.tick.setPort p
        { x with
          receiver := { state := .hunt, buffer := [], bodyLength := none, check := 0xFFFF }
          tallies := { x.tallies with droppedCheck := satHalf x.tallies.droppedCheck } }))) ∧
  ∀ (s : State) (p : PortNo) (levels : Levels) (edge sinh : Bool) (f : Frame), s.completesFrame p levels edge f →
    let x : Port := s.part.reported p
    let request : Prop := f.kind ≠ 0x21 ∧ f.kind ≠ 0x22 ∧ f.kind ≠ 0x7E ∧ ¬(0x51 ≤ f.kind.toNat ∧ f.kind.toNat ≤ 0x57)
    ((s.part.portSetup p).role = 1 → (s.part.port p).activity ≠ .awaiting →
      exec (.characterArrival p levels edge sinh) s = .next (s.ends (s.part.tick.setPort p
        { x with tallies := { x.tallies with foreign := satHalf x.tallies.foreign } }))) ∧
    ((s.part.portSetup p).role = 2 → (s.part.port p).activity.serves = true ∨ s.part.engine = .stopping →
      request → f.station = (s.part.portSetup p).ownStation ∨ f.station = 255 →
      exec (.characterArrival p levels edge sinh) s = .next (s.ends (s.part.tick.setPort p
        { x with tallies := { x.tallies with droppedBusy := satHalf x.tallies.droppedBusy } })))

/-- A complete GOOD frame at a RESPONDER port (R79, Tables 6-3, 6-5). One that is no request, or is for another station,
is counted foreign in every state (R108, R109). In IDLE in RUNNING a broadcast of a kind that cannot be broadcast is
counted dropped_format. An addressed request with the replay memory's kind, tag and check is answered from there and
counted replays (R111); else, when a step of Table 6-4 fails, it is refused with that step's reason (R113, R122), and a
broadcast only ends (R124). The answer waits out the turnaround delay, or is sent at once when that is 0 (R123). A
request that passes every step is SERVING and asks for the claim of Table 3-5 (R116); a PROBE replies with the model
code, role, station, present tables and SINH, and a CLEAR_TALLY clears the port's tallies and fault record first (R121).
Which fields of the service record are filled at acceptance and at validation is the model's choice (log 23), as are a
broadcast's result (log 37) and the check register and length in HUNT (log 40). The last clause is Table 6-4 (R49, R50,
R114, R115) and the consistency of a request body (Table 4-7). -/
def Obligations.RequestIsReplayedOrRefused : Prop :=
  (∀ (s : State) (p : PortNo) (levels : Levels) (edge sinh : Bool) (f : Frame), s.completesFrame p levels edge f →
    (s.part.portSetup p).role = 2 →
    let setup := s.part.portSetup p
    let y : Port := s.part.reported p
    let becomes (z : Port) : Prop :=
      exec (.characterArrival p levels edge sinh) s = .next (s.ends (s.part.tick.setPort p z))
    let addressed : Prop := f.station = setup.ownStation ∧ f.station ≠ 255
    let broadcastable : Prop := f.kind = 0x13 ∨ f.kind = 0x14 ∨ f.kind = 0x17
    let request : Prop := f.kind ≠ 0x21 ∧ f.kind ≠ 0x22 ∧ f.kind ≠ 0x7E ∧ ¬(0x51 ≤ f.kind.toNat ∧ f.kind.toNat ≤ 0x57)
    (¬request ∨ (f.station ≠ setup.ownStation ∧ f.station ≠ 255) →
      becomes { y with tallies := { y.tallies with foreign := satHalf y.tallies.foreign } }) ∧
    (s.part.engine = .running → (s.part.port p).activity = .idle → request →
      let x : Port := { y with
        activity := .serving, answerDelay := decide (f.station ≠ 255 ∧ setup.turnaround ≠ 0)
        memStep := .none, dataHold := f.body, peer := { y.peer with grantPhase := .none } }
      let sent (z : Port) : Port :=
        if setup.turnaround = 0 then { z with
          activity := .replying, tx := some .answer, silence := false
          receiver := { state := .hunt, buffer := [], bodyLength := none, check := 0xFFFF } }
        else { z with activity := .turnaround }
      let replays (r : Replay) : Prop := r.kind = f.kind ∧ r.tag = f.tag ∧ r.check = f.check
      let outcome := validate s.part.setup.tables s.part.sweep.presence f.kind f.body sinh
      (f.station = 255 → ¬broadcastable →
        becomes { y with tallies := { y.tallies with droppedFormat := satHalf y.tallies.droppedFormat } }) ∧
      (addressed → ∀ r : Replay, x.replay = some r → replays r →
        becomes (sent { x with
          tallies := { x.tallies with replays := satHalf x.tallies.replays }
          service := { Service.ofHeader f with result := .replay }
          answerBuffer := r.answer })) ∧
      (∀ reason, outcome = some reason →
        let refused : Port := { x with
          tallies := { x.tallies with refusalsSent := satHalf x.tallies.refusalsSent }
          fault := ⟨.refusalSent, 0xFF, f.station, f.kind, f.tag, reason, s.part.sweep.count⟩
          service := Service.ofFrame f }
        let answer := frameProper f.station 0x7E f.tag [f.kind, reason]
        (f.station = 255 → broadcastable → becomes { refused with activity := .idle }) ∧
        (addressed → (∀ r : Replay, x.replay = some r → ¬replays r) →
          becomes (sent { refused with
            service := { Service.ofFrame f with result := .refusal reason }
            answerBuffer := answer
            replay := if reason = 6 ∨ reason = 7 ∨ reason = 8 then none
              else some ⟨f.kind, f.tag, f.check, answer⟩ }))) ∧
      (outcome = none → (f.station = 255 ∧ broadcastable) ∨ (addressed ∧ ∀ r : Replay, x.replay = some r → ¬replays r) →
        let v : Service := { Service.initial with
          station := f.station, kind := f.kind, tag := f.tag, check := f.check, broadcast := decide (f.station = 255) }
        let count : Half := if f.kind = 0x15 then 1 else halfAt f.body 3
        (0x11 ≤ f.kind.toNat → f.kind.toNat ≤ 0x15 →
          exec (.characterArrival p levels edge sinh) s = .next (s.ends { s.part.tick.setPort p { x with
              service := { v with
                table := byteAt f.body 0, index := halfAt f.body 1, count := count
                andMask := if f.kind = 0x15 then halfAt f.body 3 else 0
                orMask := if f.kind = 0x15 then halfAt f.body 5 else 0 } } with
            inbox := s.part.inbox ++ [.arrive p (tableNo (byteAt f.body 0))
              (if f.kind = 0x11 ∨ f.kind = 0x12 then .shared else .exclusive) (halfAt f.body 1).toNat count.toNat] })) ∧
        (f.kind = 0x16 → ∃ mask : Byte,
          (∀ t : TableNo, mask.getLsbD t.val = (s.part.tableEntry t).present.getLsbD 0) ∧
          exec (.characterArrival p levels edge sinh) s =
            .next (s.ends ((s.part.tick.setPort p { x with service := v }).reply p
              [0x16, 0x04, setup.role, setup.ownStation, mask, if sinh then 1 else 0]))) ∧
        (f.kind = 0x17 → exec (.characterArrival p levels edge sinh) s =
          .next (s.ends ((s.part.tick.setPort p { x with
            service := v
            tallies := ⟨0, 0, 0, 0, 0, 0, 0, 0, 0, 0, 0, 0⟩, fault := ⟨.none, 0, 0, 0, 0, 0, 0⟩ }).reply p [])))))) ∧
  ∀ (dir : Vector TableEntry 8) (presence : Presence) (kind : Byte) (body : List Byte) (sinh : Bool),
    let r := validate dir presence kind body sinh
    let e := dir.get (tableNo (byteAt body 0))
    let count := (halfAt body 3).toNat
    let known : Prop := 0x11 ≤ kind.toNat ∧ kind.toNat ≤ 0x17
    let inTable : Prop := 0x11 ≤ kind.toNat ∧ kind.toNat ≤ 0x15
    let writing : Prop := kind = 0x13 ∨ kind = 0x14 ∨ kind = 0x15
    let consistent : Prop :=
      (kind = 0x11 ∧ body.length = 5 ∧ 1 ≤ count ∧ count ≤ 120) ∨
      (kind = 0x12 ∧ body.length = 5 ∧ 1 ≤ count ∧ count ≤ 960) ∨
      (kind = 0x13 ∧ body.length = 5 + 2 * count ∧ 1 ≤ count ∧ count ≤ 120) ∨
      (kind = 0x14 ∧ body.length = 5 + (count + 7) / 8 ∧ 1 ≤ count ∧ count ≤ 960) ∨
      (kind = 0x15 ∧ body.length = 7) ∨ ((kind = 0x16 ∨ kind = 0x17) ∧ body.length = 0)
    let tableFound : Prop := (byteAt body 0).toNat ≤ 7 ∧ e.present.getLsbD 0 = true ∧
      (e.kind = 1 ↔ kind = 0x12 ∨ kind = 0x14)
    let inRange : Prop := (halfAt body 1).toNat + (if kind = 0x15 then 1 else count) ≤ e.length.toNat
    let open_ : Prop := e.access ≠ 0 ∧ (writing → e.access ≠ 1 ∧ sinh = false)
    (¬known → r = some 1) ∧
    (known → ¬consistent → r = some 2) ∧
    (known → consistent → inTable → ¬tableFound → r = some 3) ∧
    (known → consistent → inTable → tableFound → ¬inRange → r = some 4) ∧
    (known → consistent → inTable → tableFound → inRange → ¬open_ → r = some 5) ∧
    (known → consistent → (inTable → tableFound ∧ inRange ∧ open_) →
      r = if presence = .absent then some 7 else none)

/-- The reply of a service (R80, R112, R122, R123, R124): to an addressed request a frame whose kind is the request's
plus 0x40, kept in the replay memory, and sent at once when the turnaround delay after the request has passed, else held
in TURNAROUND; a broadcast is not answered, keeps the replay memory and leaves the port IDLE (its record's result stays
none in the model, log 37). What the check register and the length hold in HUNT is the model's (log 40). -/
def Obligations.ReplyIsKeptForReplay : Prop :=
  ∀ (m : Part) (p : PortNo) (body : List Byte),
    let v := (m.port p).service
    let answer := frameProper v.station (v.kind + 0x40) v.tag body
    let x : Port := { m.port p with
      answerBuffer := answer
      replay := some ⟨v.kind, v.tag, v.check, answer⟩
      service := { v with result := .reply }
      memStep := .none }
    (v.broadcast = true → m.reply p body = m.setPort p { m.port p with activity := .idle, memStep := .none }) ∧
    (v.broadcast = false → (m.port p).answerDelay = true →
      m.reply p body = m.setPort p { x with activity := .turnaround }) ∧
    (v.broadcast = false → (m.port p).answerDelay = false →
      m.reply p body = m.setPort p { x with
        activity := .replying, tx := some .answer, silence := false
        receiver := { state := .hunt, buffer := [], bodyLength := none, check := 0xFFFF } })

/-- The check of a frame (R71): the register starts at 0xFFFF, and each covered byte, station, kind, tag, length and
body, is taken into its upper eight bits and followed by eight shifts towards the most significant bit, of which one
that shifts out a 1 takes 0x1021; its low byte goes first. Every frame the part forms is received GOOD: its bytes, each
arriving good in COLLECT after the lead, give back its station, kind, tag and body, and the receiver machine is in HUNT
(R70, R71, R74, R75). What a port transmits is 0xC5 and then the transmit buffer for a request, or the answer buffer
(R70, R72, R188), character by character on TXD, which is at mark otherwise (R66, R72). The levels of a character,
sampled at the middles of its bits, give back its value, good (R66, R68); another stop bit gives a framing error,
another parity bit a parity error, a further edge an overrun. A character arrives at a port with the status by the
adopted parity of the port, an overrun when a further start edge was seen, or confirmed, before its arrival (R66, R68;
log 33). What the check register and the length hold in HUNT is the model's (log 40). -/
def Obligations.FormedFrameIsReceivedGood : Prop :=
  (∀ (c : Half) (b : Byte) (l : List Byte),
    let shift (v : Half) : Half := if v.getLsbD 15 = true then (v <<< 1) ^^^ 0x1021 else v <<< 1
    crcByte c b = shift (shift (shift (shift (shift (shift (shift (shift (c ^^^ (b.zeroExtend 16 <<< 8))))))))) ∧
    crc l = l.foldl crcByte 0xFFFF) ∧
  (∀ (station kind tag : Byte) (body : List Byte),
    let covered := [station, kind, tag, BitVec.ofNat 8 body.length] ++ body
    frameProper station kind tag body =
      covered ++ [(crc covered).extractLsb' 0 8, (crc covered).extractLsb' 8 8]) ∧
  (∀ (station kind tag : Byte) (body : List Byte), body.length ≤ 248 →
    let r := (frameProper station kind tag body).foldl (fun x b => x.1.arrive b .good)
      ((⟨.hunt, [], none, 0xFFFF⟩ : Receiver).arrive 0xC5 .good)
    r.2 = some (.good ⟨station, kind, tag, body, crc ([station, kind, tag, BitVec.ofNat 8 body.length] ++ body)⟩) ∧
    r.1 = ⟨.hunt, [], none, 0xFFFF⟩) ∧
  (∀ (x : Port),
    (x.tx = none → x.txFrame = []) ∧ (x.tx = some .request → x.txFrame = 0xC5 :: x.txBuffer) ∧
    (x.tx = some .bid ∨ x.tx = some .grant ∨ x.tx = some .answer → x.txFrame = 0xC5 :: x.answerBuffer)) ∧
  (∀ (m : Part) (p : PortNo) (i j : Nat),
    let bits := if (m.portSetup p).parity = 0 then 10 else 11
    j < bits → m.txd p (bits * i + j) =
      match (m.port p).txFrame[i]? with
      | some v => (charLevels (m.portSetup p).parity v).getD j true
      | none => true) ∧
  (∀ (m : Part) (p : PortNo) (levels : Levels) (edge : Bool),
    m.arrivalStatus p levels edge =
      charStatus (m.portSetup p).parity levels (decide (edge = true ∨ 1 < (m.port p).underWay)) ∧
    charStatus (m.portSetup p).parity levels true = .overrun) ∧
  ∀ (parity v : Byte) (levels : Levels), parity = 0 ∨ parity = 1 ∨ parity = 2 →
    let sent := charLevels parity v
    let ones := (List.range 8).countP fun i => v.getLsbD i
    sent.length = (if parity = 0 then 10 else 11) ∧ sent.head? = some false ∧ sent.getLast? = some true ∧
    (∀ i, i < 8 → sent[i + 1]? = some (v.getLsbD i)) ∧
    (parity = 1 → sent[9]? = some (decide (ones % 2 = 1))) ∧ (parity = 2 → sent[9]? = some (decide (ones % 2 = 0))) ∧
    ((∀ i, i < sent.length → sent[i]? = some (levels.getLsbD i)) →
      startConfirmed levels = true ∧ charValue levels = v ∧ charStatus parity levels false = .good ∧
      charStatus parity levels true = .overrun) ∧
    (levels.getLsbD (sent.length - 1) = false → charStatus parity levels false = .framingError) ∧
    (levels.getLsbD (sent.length - 1) = true → charValue levels = v → parity ≠ 0 → sent[9]? ≠ some (levels.getLsbD 9) →
      charStatus parity levels false = .parityError)

/-- The end of a transmission releases DRVEN, with the receiver machine in HUNT and the silence begun (R72): a
request goes to AWAITING or SETTLING (R93, R94), a BID waits (R129), a GRANT is granted, or its port IDLE in
STOPPING (R134, R139), an answer ends its service (R123). What the check register and the length hold in HUNT is
the model's (log 40). -/
def Obligations.EndOfTransmissionReleasesLine : Prop :=
  ∀ (s : State) (p : PortNo), s.window.resetAsserted = false → s.part.engine.working = true →
    let x : Port := { s.part.port p with
      tx := none, receiver := { state := .hunt, buffer := [], bodyLength := none, check := 0xFFFF }, silence := true }
    (∀ w, x.run.work = some w → (s.part.port p).tx = some .request → w.order.station ≠ 255 →
      exec (.requestEndOfTransmission p) s =
        .next (s.ends (s.part.tick.setPort p { x with activity := .awaiting }))) ∧
    (∀ w, x.run.work = some w → (s.part.port p).tx = some .request → w.order.station = 255 →
      (s.part.portSetup p).turnaround ≠ 0 →
      exec (.requestEndOfTransmission p) s =
        .next (s.ends (s.part.tick.setPort p { x with activity := .settling }))) ∧
    ((s.part.port p).tx = some .bid →
      exec (.bidEndOfTransmission p) s =
        .next (s.ends (s.part.tick.setPort p { x with peer := { x.peer with bidPhase := .waiting } }))) ∧
    ((s.part.port p).tx = some .grant → s.part.engine = .running →
      exec (.grantEndOfTransmission p) s =
        .next (s.ends (s.part.tick.setPort p { x with peer := { x.peer with grantPhase := .granted } }))) ∧
    ((s.part.port p).tx = some .grant → s.part.engine = .stopping →
      exec (.grantEndOfTransmission p) s =
        .next (s.ends (s.part.tick.setPort p
          { x with activity := .idle, peer := { x.peer with grantPhase := .none } }))) ∧
    ((s.part.port p).tx = some .answer →
      exec (.answerEndOfTransmission p) s =
        .next (s.ends (s.part.tick.setPort p { x with activity := .idle })))

/-- A delay that holds a transmission passes: DRVEN is asserted, the receiver machine is held in HUNT with nothing
collected and the gap timer is stopped (R72, R93, R123, R129, R134). A delay that passes while nothing waits for it, in
another state, is over for what waits later: the line holdoff in RETRY_WAIT or IDLE, the answer's delay in SERVING. The
two rows for the line holdoff name one delay in the model (log 6), and what the check register and the length hold in
HUNT is the model's (log 40). -/
def Obligations.PassedDelayStartsTransmission : Prop :=
  ∀ (s : State) (p : PortNo), s.window.resetAsserted = false → s.part.engine.working = true →
    let x : Port := { s.part.port p with
      receiver := { state := .hunt, buffer := [], bodyLength := none, check := 0xFFFF }, silence := false }
    ((s.part.port p).activity = .sending → (s.part.port p).tx = none →
      exec (.lineHoldoffEnd p) s = .next (s.ends (s.part.tick.setPort p
        { x with tx := some .request, holdoff := false }))) ∧
    ((s.part.port p).activity = .bidding → (s.part.port p).peer.bidPhase = .holdoff →
      exec (.bidHoldoffEnd p) s = .next (s.ends (s.part.tick.setPort p
        { x with tx := some .bid, holdoff := false, peer := { x.peer with bidPhase := .transmitting } }))) ∧
    ((s.part.port p).activity = .grantedOut → (s.part.port p).peer.grantPhase = .pending →
      exec (.grantHoldEnd p) s = .next (s.ends (s.part.tick.setPort p
        { x with tx := some .grant, peer := { x.peer with grantPhase := .transmitting } }))) ∧
    ((s.part.port p).activity = .turnaround →
      exec (.turnaroundEnd p) s = .next (s.ends (s.part.tick.setPort p
        { x with tx := some .answer, answerDelay := false, activity := .replying }))) ∧
    ((s.part.port p).activity = .retryWait ∨ (s.part.port p).activity = .idle →
      exec (.lineHoldoffEnd p) s = .next (s.ends (s.part.tick.setPort p { s.part.port p with holdoff := false }))) ∧
    ((s.part.port p).activity = .serving →
      exec (.turnaroundEnd p) s = .next (s.ends (s.part.tick.setPort p { s.part.port p with answerDelay := false })))

/-! ### Runs -/

/-- A port in AWAITING. REPLY_TIMEOUT (R97, R103, Table 5-6) raises reply_timeouts and fills the fault record with
NO_REPLY; a frame that could not be read (R96) ends the attempt GARBLED; and a GOOD frame at a MASTER port, or one of a
reply kind or REFUSAL at a PEER port, is an accepted reply, which ends the run OK or asks for the deposit claim (R95,
R99, R100), a reply or refusal that is not consistent by Table 4-8, which ends the attempt GARBLED, a refusal received,
of which BUSY alone is retried (R102), or foreign. An attempt that fails waits for the next one, starts it at once with
turnaround delay 0 (R104; on a PEER port in BIDDING with no bids spent), or ends the run by Table 5-5, with its ending
handed to the slot manager. A reply timeout of a PEER port that starts it while a frame is being collected leaves the
BID in holdoff, so that the report of that frame may come together with it (R97), and the model keeps the event of the
expiry (log 41); a MASTER port's request begins at the expiry when no line holdoff is left (R93), and the frame being
collected is dropped (R72; log 44). The check register and the length in HUNT and DISCARD are the model's (log 40). -/
def Obligations.ReplyTimeoutEndsAttempt : Prop :=
  ∀ (s : State) (p : PortNo) (w : Work), s.window.resetAsserted = false → s.part.engine.working = true →
    (s.part.port p).activity = .awaiting → (s.part.port p).run.work = some w →
    let o := w.order
    let r := (s.part.port p).run
    let ended (c : Instr) (x : Port) (e : RunEnding) : Prop :=
      exec c s = .next (s.ends { s.part.tick.setPort p { x with
          activity := .idle, memStep := .none, run := { x.run with ending := some e } } with
        jobs := s.part.jobs ++ [⟨.runEnding p, s.part.eventNo + 1⟩] })
    let failed (c : Instr) (x : Port) (k : RunFailure) (e : RunEnding) : Prop :=
      (r.started < r.allowed → s.part.engine = .running → (s.part.portSetup p).turnaround ≠ 0 →
        exec c s = .next (s.ends (s.part.tick.setPort p
          { x with run := { r with lastFailure := some k }, activity := .retryWait }))) ∧
      (r.started < r.allowed → s.part.engine = .running → (s.part.portSetup p).turnaround = 0 →
        (s.part.portSetup p).role = 1 ∨ (s.part.portSetup p).role = 3 →
        exec c s = .next (s.ends (s.part.tick.setPort p
          (x.startsAttempt (s.part.portSetup p) (s.part.eventNo + 1))))) ∧
      (¬(r.started < r.allowed ∧ s.part.engine = .running) →
        ended c { x with run := { r with lastFailure := some k } } e)
    let fault (k : FaultKind) (reason : Byte) : FaultRecord :=
      ⟨k, BitVec.ofNat 8 w.slot.val, o.station, o.kind, r.tag, reason, s.part.sweep.count⟩
    failed (.replyTimeout p) { s.part.port p with
        lapsed := some (s.part.eventNo + 1)
        tallies := { (s.part.port p).tallies with replyTimeouts := satHalf (s.part.port p).tallies.replyTimeouts }
        fault := fault .noReply 0 } .noReply ⟨0x10, 0⟩ ∧
    ((s.part.port p).tx = none → (s.part.port p).receiver.state = .collect → (s.part.port p).silence = true →
      failed (.gapExceeded p) { s.part.port p with
        receiver := { state := .hunt, buffer := [], bodyLength := none, check := 0xFFFF }
        tallies := { (s.part.port p).tallies with droppedGap := satHalf (s.part.port p).tallies.droppedGap }
        fault := fault .garbled 0 } .garbled ⟨0x11, 0⟩) ∧
    (∀ (levels : Levels) (edge sinh : Bool), s.takesCharacter p levels → (s.part.port p).receiver.state = .collect →
      let x : Port := { s.part.port p with
        underWay := (s.part.port p).underWay - 1, silence := decide ((s.part.port p).underWay = 1)
        fault := fault .garbled 0 }
      (s.part.arrivalStatus p levels edge ≠ .good ∨
          ((s.part.port p).receiver.buffer.length = 3 ∧ 248 < (charValue levels).toNat) →
        failed (.characterArrival p levels edge sinh) { x with
          receiver := { state := .discard, buffer := [], bodyLength := none, check := 0xFFFF }
          tallies := { x.tallies with droppedFormat := satHalf x.tallies.droppedFormat } } .garbled ⟨0x11, 0⟩) ∧
      (s.part.arrivalStatus p levels edge = .good →
        (s.part.port p).receiver.arrive (charValue levels) .good = (⟨.hunt, [], none, 0xFFFF⟩, some .badCheck) →
        failed (.characterArrival p levels edge sinh) { x with
          receiver := { state := .hunt, buffer := [], bodyLength := none, check := 0xFFFF }
          tallies := { x.tallies with droppedCheck := satHalf x.tallies.droppedCheck } } .garbled ⟨0x11, 0⟩)) ∧
    ∀ (levels : Levels) (edge sinh : Bool) (f : Frame), s.completesFrame p levels edge f →
      (s.part.portSetup p).role = 1 ∨
        ((s.part.portSetup p).role = 3 ∧ (f.kind = 0x7E ∨ (0x51 ≤ f.kind.toNat ∧ f.kind.toNat ≤ 0x57))) →
      let c : Instr := .characterArrival p levels edge sinh
      let x : Port := s.part.reported p
      let matches_ : Prop := f.station = o.station ∧ f.tag = r.tag
      let length := f.body.length
      let names : Prop := byteAt f.body 0 = o.remoteTable ∧ halfAt f.body 1 = o.remoteIndex
      let echoes : Prop := names ∧ halfAt f.body 3 = o.count
      let replyAgrees : Prop :=
        (o.kind = 0x11 ∧ length = 5 + 2 * o.count.toNat ∧ echoes) ∨
        (o.kind = 0x12 ∧ length = 5 + (o.count.toNat + 7) / 8 ∧ echoes) ∨
        ((o.kind = 0x13 ∨ o.kind = 0x14) ∧ length = 5 ∧ echoes) ∨ (o.kind = 0x15 ∧ length = 7 ∧ names) ∨
        (o.kind = 0x16 ∧ length = 6) ∨ (¬(0x11 ≤ o.kind.toNat ∧ o.kind.toNat ≤ 0x16) ∧ length = 0)
      let refusalAgrees : Prop := length = 2 ∧ byteAt f.body 0 = o.kind ∧ 1 ≤ (byteAt f.body 1).toNat ∧
        (byteAt f.body 1).toNat ≤ 8
      (matches_ → f.kind = o.kind + 0x40 → replyAgrees →
        (o.kind = 0x11 ∨ o.kind = 0x12 →
          exec c s = .next (s.ends { s.part.tick.setPort p
              { x with activity := .depositing, dataHold := f.body, memStep := .none } with
            inbox := s.part.inbox ++
              [.arrive p (tableNo o.localTable) .exclusive o.localIndex.toNat o.count.toNat] })) ∧
        (o.kind ≠ 0x11 → o.kind ≠ 0x12 →
          ended c { x with run := { r with replyData :=
            if o.kind = 0x15 then #v[byteAt f.body 3, byteAt f.body 4, byteAt f.body 5, byteAt f.body 6, 0, 0, 0, 0]
            else if o.kind = 0x16 then #v[byteAt f.body 0, byteAt f.body 1, byteAt f.body 2, byteAt f.body 3,
              byteAt f.body 4, byteAt f.body 5, 0, 0]
            else zeroReply } } ⟨0, 0⟩)) ∧
      (matches_ → (f.kind = o.kind + 0x40 ∧ ¬replyAgrees) ∨
          (f.kind ≠ o.kind + 0x40 ∧ f.kind = 0x7E ∧ ¬refusalAgrees) →
        failed c { x with fault := fault .garbled 0 } .garbled ⟨0x11, 0⟩) ∧
      (matches_ → f.kind ≠ o.kind + 0x40 → f.kind = 0x7E → refusalAgrees →
        let y : Port := { x with
          tallies := { x.tallies with refusalsReceived := satHalf x.tallies.refusalsReceived }
          fault := fault .refusalReceived (byteAt f.body 1) }
        (byteAt f.body 1 = 6 → failed c y .busy ⟨0x12, 6⟩) ∧
        (byteAt f.body 1 ≠ 6 → ended c y ⟨0x12, byteAt f.body 1⟩)) ∧
      (¬matches_ ∨ (f.kind ≠ o.kind + 0x40 ∧ f.kind ≠ 0x7E) →
        exec c s = .next (s.ends (s.part.tick.setPort p
          { x with tallies := { x.tallies with foreign := satHalf x.tallies.foreign } })))

/-- RETRY_WAIT_END (R92, R104, R106): in RUNNING the next attempt starts, on a MASTER port in SENDING, with the request
transmitted at once when no line holdoff is left (R93), and on a PEER port in BIDDING with bids spent 0 and its BID sent
the same way (R129); in STOPPING the run ends with its last failure, whichever of Table 5-5 it is, and its ending is
handed to the slot manager. What the check register and the length hold in HUNT is the model's (log 40). -/
def Obligations.RetryWaitEndStartsNextAttempt : Prop :=
  ∀ (s : State) (p : PortNo) (w : Work), s.window.resetAsserted = false →
    (s.part.port p).activity = .retryWait → (s.part.port p).run.work = some w →
    let r := (s.part.port p).run
    (s.part.engine = .running → (s.part.portSetup p).role = 1 ∨ (s.part.portSetup p).role = 3 →
      exec (.retryWaitEnd p) s = .next (s.ends (s.part.tick.setPort p
        ((s.part.port p).startsAttempt (s.part.portSetup p) (s.part.eventNo + 1))))) ∧
    ∀ k : RunFailure, s.part.engine = .stopping → r.lastFailure = some k →
      exec (.retryWaitEnd p) s = .next (s.ends { s.part.tick.setPort p { s.part.port p with
          activity := .idle, memStep := .none
          run := { r with ending := some (match k with
            | .noReply => ⟨0x10, 0⟩
            | .garbled => ⟨0x11, 0⟩
            | .noGrant => ⟨0x13, 0⟩
            | .busy => ⟨0x12, 6⟩) } } with
        jobs := s.part.jobs ++ [⟨.runEnding p, s.part.eventNo + 1⟩] })

/-- SETTLING_END (R94): the run ends OK, and its ending is handed to the slot manager; a broadcast whose turnaround
delay is 0 ends so at the end of its transmission. What the check register and the length hold in HUNT is the model's
(log 40). -/
def Obligations.SettledBroadcastEndsOk : Prop :=
  ∀ (s : State) (p : PortNo) (w : Work), s.window.resetAsserted = false → s.part.engine.working = true →
    (s.part.port p).run.work = some w →
    let r := (s.part.port p).run
    ((s.part.port p).activity = .settling →
      exec (.settlingEnd p) s = .next (s.ends { s.part.tick.setPort p { s.part.port p with
          activity := .idle, memStep := .none, run := { r with ending := some ⟨0, 0⟩ } } with
        jobs := s.part.jobs ++ [⟨.runEnding p, s.part.eventNo + 1⟩] })) ∧
    ((s.part.port p).tx = some .request → w.order.station = 255 → (s.part.portSetup p).turnaround = 0 →
      exec (.requestEndOfTransmission p) s = .next (s.ends { s.part.tick.setPort p { s.part.port p with
          activity := .idle, memStep := .none, run := { r with ending := some ⟨0, 0⟩ }
          tx := none, silence := true
          receiver := { state := .hunt, buffer := [], bodyLength := none, check := 0xFFFF } } with
        jobs := s.part.jobs ++ [⟨.runEnding p, s.part.eventNo + 1⟩] }))

/-- BID_TIMER_EXPIRY (R131): bids spent rises; below the bid limit the next BID of the run is formed, and waits for the
line holdoff if it still runs (R129); at the limit the attempt ends NO_GRANT with no tally raised and no fault record
filled, and the port waits for its next attempt, starts it at once with turnaround delay 0 (R104), or the run, with no
attempt left, ends NO_GRANT. With turnaround delay 0 a limit spent while a frame is being collected leaves the port in
RETRY_WAIT until RETRY_WAIT_END, so that a GRANT which comes together with the expiry is counted foreign there (R131;
the command as the end of a delay of 0 is the model's, log 43, DESIGN CHOICE).
GRANT_TIMER_EXPIRY (R137): the grant lapses and the port is IDLE. A BID that such an expiry starts while a frame is
being collected waits in holdoff until the command of its holdoff's end; the report of that frame comes before that
command when it reaches the port together with the expiry, and after it when it comes later, and the event of the expiry
is kept (log 41). What reaches a port whose BID or request waits (R97, R98, R130, R131, R133, R135, R137 to R139): the
GRANT to the run is accepted, and the BID is not sent; a partner BID is granted by a port that yields; an unbid request
is counted dropped_unbid, and what a MASTER port receives foreign; what waits goes on waiting. Once DRVEN is asserted
every character and the gap limit leave the transmission and the receiver machine as they are (R72, R93). What the check
register and the length hold in HUNT is the model's (log 40). -/
def Obligations.PeerTimersEndBidAndGrant : Prop :=
  (∀ (s : State) (p : PortNo) (w : Work), s.window.resetAsserted = false → s.part.engine.working = true →
    (s.part.port p).activity = .bidding → (s.part.port p).peer.bidPhase = .waiting →
    (s.part.port p).run.work = some w →
    let setup := s.part.portSetup p
    let r := (s.part.port p).run
    let x : Port := { s.part.port p with
      lapsed := some (s.part.eventNo + 1)
      peer := { (s.part.port p).peer with bidsSpent := (s.part.port p).peer.bidsSpent + 1, bidPhase := .none } }
    let left : Prop := x.peer.bidsSpent < setup.bidLimit.toNat
    let becomes (y : Port) : Prop := exec (.bidTimerExpiry p) s = .next (s.ends (s.part.tick.setPort p y))
    (left → becomes (x.entersBidding setup.partnerStation (s.part.eventNo + 1))) ∧
    (¬left → r.started < r.allowed → s.part.engine = .running →
      (setup.turnaround ≠ 0 ∨ x.receiver.state = .collect →
        becomes { x with run := { r with lastFailure := some .noGrant }, activity := .retryWait }) ∧
      (setup.turnaround = 0 → x.receiver.state ≠ .collect → setup.role = 3 → becomes (x.startsAttempt setup (s.part.eventNo + 1)))) ∧
    (¬left → ¬(r.started < r.allowed ∧ s.part.engine = .running) →
      exec (.bidTimerExpiry p) s = .next (s.ends { s.part.tick.setPort p { x with
          activity := .idle, memStep := .none
          run := { r with lastFailure := some .noGrant, ending := some ⟨0x13, 0⟩ } } with
        jobs := s.part.jobs ++ [⟨.runEnding p, s.part.eventNo + 1⟩] }))) ∧
  (∀ (s : State) (p : PortNo), s.window.resetAsserted = false → s.part.engine.working = true →
    (s.part.port p).activity = .grantedOut → (s.part.port p).peer.grantPhase = .granted →
    exec (.grantTimerExpiry p) s = .next (s.ends (s.part.tick.setPort p { s.part.port p with
      lapsed := some (s.part.eventNo + 1)
      activity := .idle, peer := { (s.part.port p).peer with grantPhase := .none } }))) ∧
  (∀ (s : State) (p : PortNo), s.window.resetAsserted = false → s.part.engine.working = true →
    ((s.part.port p).activity = .bidding ∧ (s.part.port p).peer.bidPhase = .holdoff) ∨
      (s.part.port p).activity = .sending →
    (s.part.port p).tx = none →
    let setup := s.part.portSetup p
    let x : Port := s.part.port p
    let becomes (c : Instr) (y : Port) : Prop := exec c s = .next (s.ends (s.part.tick.setPort p y))
    (x.receiver.state = .collect → x.silence = true → becomes (.gapExceeded p) { x with
      receiver := { state := .hunt, buffer := [], bodyLength := none, check := 0xFFFF }
      tallies := { x.tallies with droppedGap := satHalf x.tallies.droppedGap } }) ∧
    ∀ (levels : Levels) (edge sinh : Bool),
      let c : Instr := .characterArrival p levels edge sinh
      (∀ k : Receiver, s.takesCharacter p levels → x.receiver.state ≠ .inactive →
        x.receiver.arrive (charValue levels) (s.part.arrivalStatus p levels edge) = (k, none) →
        becomes c { x with underWay := x.underWay - 1, silence := decide (x.underWay = 1), receiver := k }) ∧
      ∀ f : Frame, s.completesFrame p levels edge f →
        let y : Port := s.part.reported p
        let counted (u : Tallies) : Prop := becomes c { y with tallies := u }
        let request : Prop := (f.kind ≠ 0x21 ∧ f.kind ≠ 0x22 ∧ f.kind ≠ 0x7E ∧
          ¬(0x51 ≤ f.kind.toNat ∧ f.kind.toNat ≤ 0x57)) ∧ (f.station = setup.ownStation ∨ f.station = 255)
        let bid : Prop := f.kind = 0x21 ∧ f.station = setup.ownStation ∧ f.body = []
        let toRun : Prop := x.activity = .bidding ∧ f.kind = 0x22 ∧ f.station = setup.ownStation ∧ f.body = [] ∧
          x.run.work ≠ none ∧ f.tag = x.run.tag
        let yields : Prop := x.activity = .bidding ∧ s.part.engine = .running ∧
          setup.partnerStation.toNat < setup.ownStation.toNat
        (setup.role = 1 → counted { y.tallies with foreign := satHalf y.tallies.foreign }) ∧
        (setup.role = 3 →
          (toRun → becomes c
            ({ y with peer := { y.peer with bidPhase := .none } } : Port).entersSending) ∧
          (bid → yields → becomes c (({ y with
            tallies := { y.tallies with bidsLost := satHalf y.tallies.bidsLost }
            run := { y.run with suspended := true }
            peer := { y.peer with bidPhase := .none } } : Port).grants setup f.tag)) ∧
          (bid → ¬yields → counted y.tallies) ∧
          (request → s.part.engine = .running →
            counted { y.tallies with droppedUnbid := satHalf y.tallies.droppedUnbid }) ∧
          (request → s.part.engine = .stopping →
            counted { y.tallies with droppedBusy := satHalf y.tallies.droppedBusy }) ∧
          (¬bid → ¬toRun → ¬request → counted { y.tallies with foreign := satHalf y.tallies.foreign }))) ∧
  ∀ (s : State) (p : PortNo), s.window.resetAsserted = false → s.part.engine.working = true →
    (s.part.port p).tx ≠ none →
    exec (.gapExceeded p) s = .next (s.ends s.part.tick) ∧
    ∀ (levels : Levels) (edge sinh : Bool), startConfirmed levels = true →
      (s.part.port p).receiver.state ≠ .inactive →
      exec (.characterArrival p levels edge sinh) s = .next (s.ends (s.part.tick.setPort p
        { s.part.port p with underWay := (s.part.port p).underWay - 1 }))

/-- A port takes the head of its dispatch queue when the queue is not empty, the engine is RUNNING and the port is free,
and in no other case (R42, R44, R174). It is free when it is IDLE with no run in progress, a suspended run and one whose
ending waits for room among them, and as a PEER port holds no claim, in the model also none on its way to or from the
claim unit (log 31). At the head-taking (R42, R86, R87, R90, R92) the slot is ACTIVE and the run carries the tag
counter, which rises by 1 modulo 256; a store kind asks for its SHARED claim in PREPARING; any other kind starts its
first attempt with its request formed, its body by Table 5-3, on a MASTER port in SENDING, where the request waits for
the line holdoff while that runs and is transmitted at once when none is left (R93), and on a PEER port in BIDDING with
its BID formed (R129), which waits in holdoff when the head is taken at the grant timer's expiry while a frame is being
collected (R137; log 41). What the check register and the length hold in HUNT is the model's (log 40). -/
def Obligations.HeadTakingBeginsRun : Prop :=
  let free (m : Part) (p : PortNo) : Prop :=
    (m.port p).run.work = none ∧ (m.port p).activity = .idle ∧
      ((m.portSetup p).role = 0 ∨ (m.portSetup p).role = 1 ∨ (m.portSetup p).role = 2 ∨
        ((∀ t, ∀ c ∈ m.claimList t, c.claimant ≠ .port p) ∧
          ∀ i ∈ m.inbox, (∀ t mode first count, i ≠ .arrive p t mode first count) ∧ i ≠ .leave p ∧ i ≠ .expire p ∧
            i ≠ .stored p))
  (∀ (m : Part) (p : PortNo), (m.portFree p = true ↔ free m p) ∧
    (m.headStep p = none ↔ m.queue p = [] ∨ m.engine ≠ .running ∨ ¬free m p)) ∧
  ∀ (m : Part) (p : PortNo) (n : SlotNo) (rest : List SlotNo), m.engine = .running → free m p →
    m.queue p = n :: rest →
    let o := (m.slot n).order
    let tag := (m.port p).tagCounter
    let x : Port := { m.port p with
      run := ⟨some ⟨n, o⟩, tag, 0, o.retries.toNat + 1, none, zeroReply, false, none⟩
      tagCounter := tag + 1, activity := .preparing, memStep := .none }
    let half (h : Half) : List Byte := [h.extractLsb' 0 8, h.extractLsb' 8 8]
    let body : List Byte :=
      if o.kind = 0x11 ∨ o.kind = 0x12 then [o.remoteTable] ++ half o.remoteIndex ++ half o.count
      else if o.kind = 0x15 then [o.remoteTable] ++ half o.remoteIndex ++ half o.andMask ++ half o.orMask
      else []
    ∃ t : Part, m.headStep p = some t ∧ t.queue p = rest ∧ (∀ q, q ≠ p → t.queue q = m.queue q) ∧
      t.slot n = { m.slot n with state := .active } ∧ (∀ k, k ≠ n → t.slot k = m.slot k) ∧
      (∀ q, q ≠ p → t.port q = m.port q) ∧
      (o.kind = 0x13 ∨ o.kind = 0x14 → t.port p = x ∧
        t.inbox = m.inbox ++ [.arrive p (tableNo o.localTable) .shared o.localIndex.toNat o.count.toNat]) ∧
      (o.kind ≠ 0x13 → o.kind ≠ 0x14 → (m.portSetup p).role = 1 ∨ (m.portSetup p).role = 3 →
        t.port p = ({ x with txBuffer := frameProper o.station o.kind tag body } : Port).startsAttempt
          (m.portSetup p) m.eventNo ∧
        t.inbox = m.inbox)

/-- A GOOD frame at a PEER port. A partner BID in RUNNING is granted by a port in IDLE or GRANTED_OUT, and by one in
BIDDING whose partner's station is the lower, which yields: bids_lost is raised and its run suspended (R132 to R135,
R137); in any other state and in STOPPING it has no effect (R132, R139). A GRANT to the run in BIDDING starts its
sending (R130). A request is served in GRANTED_OUT once granted, and else counted dropped_unbid, or dropped_busy while
serving and in STOPPING; a broadcast of a kind that cannot be broadcast is counted dropped_format (R108, R109, R137 to
R139); in AWAITING a frame of unknown kind is no request (log 17). Any other frame is counted foreign, or is an answer
in AWAITING (R95, R98). A suspended run bids again once its port is IDLE (R136). What the check register and the length
hold in HUNT is the model's (log 40), and a BID of a run that resumes at the grant timer's expiry while a frame is being
collected waits in holdoff (log 41). -/
def Obligations.PeerFramesGrantYieldOrDrop : Prop :=
  (∀ (s : State) (p : PortNo) (levels : Levels) (edge sinh : Bool) (f : Frame), s.completesFrame p levels edge f →
    (s.part.portSetup p).role = 3 →
    let own := (s.part.portSetup p).ownStation
    let partner := (s.part.portSetup p).partnerStation
    let x : Port := s.part.reported p
    let becomes (y : Port) : Prop :=
      exec (.characterArrival p levels edge sinh) s = .next (s.ends (s.part.tick.setPort p y))
    let grants (y : Port) : Prop := becomes (y.grants (s.part.portSetup p) f.tag)
    let counted (u : Tallies) : Prop := becomes { x with tallies := u }
    let bid : Prop := f.kind = 0x21 ∧ f.station = own ∧ f.body = []
    let toRun : Prop := x.activity = .bidding ∧ f.kind = 0x22 ∧ f.station = own ∧ f.body = [] ∧
      x.run.work ≠ none ∧ f.tag = x.run.tag
    let request : Prop := (f.kind ≠ 0x21 ∧ f.kind ≠ 0x22 ∧ f.kind ≠ 0x7E ∧
      ¬(0x51 ≤ f.kind.toNat ∧ f.kind.toNat ≤ 0x57)) ∧ (f.station = own ∨ f.station = 255) ∧
      (x.activity = .awaiting → 0x11 ≤ f.kind.toNat ∧ f.kind.toNat ≤ 0x17)
    (bid →
      (s.part.engine = .stopping → becomes x) ∧
      (s.part.engine = .running →
        (x.activity = .idle ∨ x.activity = .grantedOut → grants x) ∧
        (x.activity = .bidding → partner.toNat < own.toNat → grants { x with
          tallies := { x.tallies with bidsLost := satHalf x.tallies.bidsLost }
          run := { x.run with suspended := true }
          peer := { x.peer with bidPhase := .none } }) ∧
        (x.activity = .bidding → ¬partner.toNat < own.toNat → becomes x) ∧
        (x.activity ≠ .idle → x.activity ≠ .grantedOut → x.activity ≠ .bidding → becomes x))) ∧
    (toRun → becomes
      ({ x with peer := { x.peer with bidPhase := .none } } : Port).entersSending) ∧
    (request →
      (x.activity.serves = true ∨ s.part.engine = .stopping →
        counted { x.tallies with droppedBusy := satHalf x.tallies.droppedBusy }) ∧
      (x.activity.serves = false → s.part.engine = .running →
        ¬(x.activity = .grantedOut ∧ x.peer.grantPhase = .granted) →
        counted { x.tallies with droppedUnbid := satHalf x.tallies.droppedUnbid }) ∧
      (s.part.engine = .running → x.activity = .grantedOut → x.peer.grantPhase = .granted →
        let broadcastable : Prop := f.kind = 0x13 ∨ f.kind = 0x14 ∨ f.kind = 0x17
        (f.station = 255 → ¬broadcastable →
          counted { x.tallies with droppedFormat := satHalf x.tallies.droppedFormat }) ∧
        (f.station ≠ 255 ∨ broadcastable → exec (.characterArrival p levels edge sinh) s =
          .next (s.ends ((s.part.tick.setPort p x).acceptRequest p f sinh))))) ∧
    (¬bid → ¬toRun → ¬request →
      (x.activity ≠ .awaiting → counted { x.tallies with foreign := satHalf x.tallies.foreign }) ∧
      (x.activity = .awaiting → exec (.characterArrival p levels edge sinh) s =
        .next (s.ends ((s.part.tick.setPort p x).answerInAwaiting p f))))) ∧
  ∀ (m : Part) (p : PortNo),
    let x : Port := m.port p
    x.run.work ≠ none → x.run.suspended = true → x.activity = .idle →
      m.resumeStep p = some (m.setPort p (({ x with run := { x.run with suspended := false } } : Port).entersBidding
        (m.portSetup p).partnerStation m.eventNo))

/-! ### Sweeps, slots and claims -/

/-- PERIOD_EXPIRY (R30, R31, R35, R39): the expiry of a period timer that runs reaches the slot manager behind what has
reached it before, and is taken in its turn; where no period timer runs, in the slot or in the engine state, nothing
happens (log 7). With no other internal work ready and no delivery tree in progress it is taken at this event, also while
the entry of a completion or a post waits for room (Table 2-2 note 2; log 12): a trigger in RUNNING while host software
is PRESENT, and no effect otherwise. While a delivery tree waits for room it is held (R35). The count 4095 is what the
model leaves of its bound on internal work (log 27). -/
def Obligations.PeriodExpiryTriggersUnlessSuppressed : Prop :=
  ∀ (s : State) (n : SlotNo), s.window.resetAsserted = false →
    let held : Part := { s.part.tick with jobs := s.part.jobs ++ [⟨.expiry n, s.part.eventNo + 1⟩] }
    let runs : Prop := s.part.engine.working = true ∧ (s.part.slot n).periodTimer = true
    let becomes (m : Part) : Prop := exec (.periodExpiry n) s = .next { s with part := m }
    (runs → exec (.periodExpiry n) s = .next (s.ends held)) ∧
    (¬runs → exec (.periodExpiry n) s = .next (s.ends s.part.tick)) ∧
    (runs → s.part.settled s.window.base →
      (s.part.tree = [] → s.part.engine = .running → s.part.sweep.presence = .present →
        becomes (Part.settle s.window.base 4095 (s.part.tick.trigger n)).grantBus) ∧
      (s.part.tree = [] → s.part.engine = .stopping ∨ s.part.sweep.presence = .absent → becomes s.part.tick.grantBus) ∧
      (s.part.tree ≠ [] → becomes held.grantBus))

/-- CLAIM_WAIT_LIMIT_EXPIRY (R56): the expiry of a claim that waits reaches the claim unit behind what has reached it
before, and is taken in its turn; one of a claim that no longer waits, having been granted or removed, has no effect
(R57). With the claim unit free and room for an entry it is taken at once: the claim leaves, and of the claims that
remain, passed from the head of the list, a waiting one is granted when it conflicts with no claim ahead of it and with
no granted claim behind it (R54); a granted port starts its access, and a granted hold is HELD, with its table record
entry queued (R60). The port's transaction ends by Table 3-7: a service is refused BUSY, its replay memory emptied and
its refusal held in TURNAROUND or sent, a broadcast only ends; a run, in PREPARING or DEPOSITING, ends CLAIM_TIMEOUT.
The count 4095 is what the model leaves of its bound on internal work (log 27); what the check register and the length
hold in HUNT is the model's (log 40). -/
def Obligations.ClaimWaitLimitEndsTransaction : Prop :=
  (∀ (s : State) (p : PortNo), s.window.resetAsserted = false → s.part.engine.working = true →
    let waits : Prop := ∃ t, ∃ c ∈ s.part.claimList t, c.claimant = .port p ∧ c.granted = false
    (waits → exec (.claimWaitLimitExpiry p) s =
      .next (s.ends { s.part.tick with inbox := s.part.inbox ++ [.expire p] })) ∧
    (¬waits → exec (.claimWaitLimitExpiry p) s = .next (s.ends s.part.tick))) ∧
  ∀ (s : State) (p : PortNo) (t : TableNo), s.window.resetAsserted = false → s.part.engine.working = true →
    s.part.inbox = [] → s.part.waits .claimUnit = false → s.part.hasRoom = true →
    s.part.waitLimitRuns p = true → s.part.claimTable p = some t →
    let bits := (s.part.tableEntry t).isBits
    let left := (s.part.claimList t).filter fun c => c.claimant != .port p
    let held : TableRecord := { s.part.table t with holdState := .held }
    ∃ k m : Part,
      exec (.claimWaitLimitExpiry p) s = .next { s with part := (Part.settle s.window.base 4095 m).grantBus } ∧
      (let granted (who : Claimant) : Prop := becomesGranted left (k.claimList t) who
      grantsByRule bits left (k.claimList t) ∧
      (∀ u, u ≠ t → k.claimList u = s.part.claimList u) ∧
      (granted .hold → k.table t = held ∧
        k.xq = s.part.xq ++ [⟨[⟨areaAddress s.window.base (0x100 + 32 * t.val + 0x10), tableRecordBytes held⟩]⟩]) ∧
      (¬granted .hold → k.table t = s.part.table t ∧ k.xq = s.part.xq) ∧
      (∀ u, u ≠ t → k.table u = s.part.table u) ∧
      (∀ q, granted (.port q) → k.port q = (s.part.claimGranted q).port q) ∧
      (∀ q, ¬granted (.port q) → k.port q = s.part.port q)) ∧
      k.slots = s.part.slots ∧ k.causes = s.part.causes ∧ k.jobs = s.part.jobs ∧ k.eventNo = s.part.eventNo + 1 ∧
      k.sweep = s.part.sweep ∧ k.timesOut m p

/-- A slot host word taken by the slot manager (R4, R6, R14 to R18): an unchanged post number has no effect; a changed
one becomes the seen post, an ARM of a host-owned slot in RUNNING reads the order record, and every other post is
answered as the slot's state says; a WITHDRAW of a TAKEN or QUEUED slot in RUNNING marks the followers at the same event
and begins a delivery (R36, R37), in the model also of a slot without followers (log 39). The order record of an ARM
(R6, R12, R13, R28 to R30): outside RUNNING the post is answered IGNORED_BUSY (log 14); a check that fails rejects it
with its code; else the order is taken, its repeat flag recorded and its period timer started, a follower waits TAKEN,
and any other order is triggered and placed by R40. The entry of a post comes before the endings of runs that wait (log
15). -/
def Obligations.PostsFollowSlotState : Prop :=
  (∀ (m : Part) (base : Word) (n : SlotNo),
    let w := m.sweep.word
    let x := m.slot n
    let t := m.handPost base n.val
    let seen : Slot := { x with seenPost := w.extractLsb' 16 16 }
    let followers := (List.finRange 16).filter fun k =>
      k != n && (m.slot k).state.partOwned && (m.slot k).order.follows == BitVec.ofNat 8 n.val
    let waits : Prop := t.sweep.phase = .postWait n.val ∧ t.sweepAccess = m.sweepAccess
    let answered (y : Slot) : Prop :=
      t.slot n = y ∧ (∀ k, k ≠ n → t.slot k = m.slot k) ∧ waits ∧ t.tree = m.tree ∧
        t.jobs = ⟨.postWord n, m.eventNo⟩ :: m.jobs
    let withdrawn : Slot :=
      { seen with state := .withdrawn, postOutcome := .acted, owed := false, brokenMark := false, periodTimer := false }
    (w.extractLsb' 16 16 = x.seenPost → t = m.afterSlot base n.val) ∧
    (w.extractLsb' 16 16 ≠ x.seenPost →
      (w.extractLsb' 0 8 = 1 → m.engine = .running → x.state.partOwned = false →
        t.slot n = seen ∧ (∀ k, k ≠ n → t.slot k = m.slot k) ∧ t.sweep.phase = .order n.val ∧ t.jobs = m.jobs ∧
          t.sweepAccess = some (.read (areaAddress base (0x400 + 64 * n.val)) 32 [])) ∧
      (w.extractLsb' 0 8 = 1 → m.engine ≠ .running ∨ x.state.partOwned = true →
        answered { seen with postOutcome := .ignoredBusy }) ∧
      (w.extractLsb' 0 8 = 2 → x.state = .taken ∨ x.state = .queued →
        t.queue x.order.portNo = (m.queue x.order.portNo).filter (fun k => k != n) ∧
        (m.engine ≠ .running → answered withdrawn) ∧
        (m.engine = .running →
          t.slot n = withdrawn ∧ waits ∧ t.jobs = m.jobs ∧
            t.tree = .word n :: followers.map .left ++ m.tree ∧
            ∀ k, k ≠ n → t.slot k =
              if k ∈ followers ∧ ((m.slot k).state = .queued ∨ (m.slot k).state = .active) then
                { m.slot k with brokenMark := true }
              else m.slot k)) ∧
      (w.extractLsb' 0 8 = 2 → x.state = .active → x.withdrawMark = false →
        answered { seen with withdrawMark := true, postOutcome := .acted }) ∧
      (w.extractLsb' 0 8 = 2 → x.state = .active → x.withdrawMark = true →
        answered { seen with postOutcome := .ignoredNoop }) ∧
      (w.extractLsb' 0 8 = 2 → x.state.partOwned = false →
        answered { seen with postOutcome := .ignoredNoop }) ∧
      (w.extractLsb' 0 8 ≠ 1 → w.extractLsb' 0 8 ≠ 2 →
        answered { seen with postOutcome := .ignoredNoop }))) ∧
  ∀ (m : Part) (n : SlotNo) (o : Order),
    let x := m.slot n
    let t := m.armPost n o
    let before := m.slot (Fin.ofNat 16 o.follows.toNat)
    let repeats : Bool := o.follows != 0xFF && (before.state.partOwned &&
      ((before.order.follows == 0xFF && before.order.period != 0) ||
        (before.order.follows != 0xFF && before.repeatFlag)) &&
      !before.withdrawMark && !before.brokenMark)
    let taken : Slot := { x with
      postOutcome := .acted, state := .taken, order := o, withdrawMark := false, brokenMark := false, owed := false
      repeatFlag := repeats, periodTimer := o.follows == 0xFF && o.period != 0 }
    (∀ k, k ≠ n → t.slot k = m.slot k) ∧ t.tree = m.tree ∧
    (m.engine ≠ .running →
      t = { m.setSlot n { x with postOutcome := .ignoredBusy } with
        jobs := ⟨.postWord n, m.eventNo⟩ :: m.jobs }) ∧
    (∀ code, m.engine = .running → m.orderCheck n o = some code →
      t = { m.setSlot n { x with
          postOutcome := .acted, state := .rejected, result := ⟨code, 0, 0, 0, 0, 0, zeroReply⟩ } with
        jobs := ⟨.rejection n (o.flags.getLsbD 0), m.eventNo⟩ :: m.jobs }) ∧
    (m.engine = .running → m.orderCheck n o = none → o.follows ≠ 0xFF →
      t = { m.setSlot n taken with jobs := ⟨.takeWord n, m.eventNo⟩ :: m.jobs }) ∧
    (m.engine = .running → m.orderCheck n o = none → o.follows = 0xFF →
      t.slot n = { taken with state := .queued } ∧ t.jobs = ⟨.takeWord n, m.eventNo⟩ :: m.jobs ∧
      ∃ a b, m.queue o.portNo = a ++ b ∧ t.queue o.portNo = a ++ n :: b ∧
        (o.flags.getLsbD 1 = false → b = []) ∧
        (o.flags.getLsbD 1 = true → (∀ k ∈ b, (t.slot k).order.urgent = false) ∧
          ∀ k, a.getLast? = some k → (t.slot k).order.urgent = true))

/-- R31, Table 2-2: a trigger to a TAKEN slot queues it by R40, behind the last urgent entry or at the tail; to a
QUEUED or ACTIVE slot it sets the owed flag, or raises the overrun count, stopping at 65535. -/
def Obligations.TriggerFollowsTable : Prop :=
  ∀ (m : Part) (n : SlotNo),
    ((m.slot n).state = .taken →
      ((m.trigger n).slot n) = { m.slot n with state := .queued } ∧
      ∃ a b, m.queue (m.slot n).order.portNo = a ++ b ∧
        (m.trigger n).queue (m.slot n).order.portNo = a ++ n :: b ∧
        ((m.slot n).order.urgent = false → b = []) ∧
        ((m.slot n).order.urgent = true →
          (∀ k ∈ b, (m.slot k).order.urgent = false) ∧ ∀ k, a.getLast? = some k → (m.slot k).order.urgent = true)) ∧
    ((m.slot n).state = .queued ∨ (m.slot n).state = .active →
      ((m.slot n).owed = false → m.trigger n = m.setSlot n { m.slot n with owed := true }) ∧
      ((m.slot n).owed = true → m.trigger n = m.setSlot n { m.slot n with
        overruns := if (m.slot n).overruns = 0xFFFF then 0xFFFF else (m.slot n).overruns + 1 })) ∧
    ((m.slot n).state.partOwned = false → m.trigger n = m)

/-- Table 1-8 and R20, R21: the slot after a completion. A slot that stays part-owned keeps its period timer as it is,
and one that enters a host-owned state stops it (R30). The broken mark is cleared by the completion of a slot with the
withdraw mark, and by every completion that is not STOPPED (R37); a completion STOPPED without the withdraw mark leaves
it as it is (log 25, DEDUCED). -/
def Obligations.CompletionFollowsTable : Prop :=
  ∀ (x : Slot) (c : Completion) (count : Word),
    let y := completedSlot x c count
    y.completions = x.completions + 1 ∧ y.owed = false ∧ y.overruns = 0 ∧ y.withdrawMark = false ∧
    y.result = ⟨c.outcome, c.reason, c.attempts, c.tag, x.overruns, count, c.replyData⟩ ∧
    y.order = x.order ∧ y.seenPost = x.seenPost ∧ y.postOutcome = x.postOutcome ∧ y.repeatFlag = x.repeatFlag ∧
    (y.state.partOwned = false → y.periodTimer = false) ∧
    (y.state.partOwned = true → y.periodTimer = x.periodTimer) ∧
    (x.withdrawMark = true ∨ c.outcome ≠ 0x17 → y.brokenMark = false) ∧
    (x.withdrawMark = false → c.outcome = 0x17 → y.brokenMark = x.brokenMark) ∧
    (x.withdrawMark = true → y.state = .withdrawn) ∧
    (x.withdrawMark = false → c.outcome = 0x17 → y.state = .failed) ∧
    (x.withdrawMark = false → c.outcome ≠ 0x17 → x.brokenMark = true →
      y.state = if c.outcome = 0 then .done else .failed) ∧
    (x.withdrawMark = false → c.outcome ≠ 0x17 → x.brokenMark = false →
      (c.chain = .predecessorLeft → y.state = .failed) ∧
      (c.chain = .predecessorFailed → y.state = if x.repeating then .taken else .failed) ∧
      (c.chain = .none → x.repeating = true → y.state = if x.owed then .queued else .taken) ∧
      (c.chain = .none → x.repeating = false → y.state = if c.outcome = 0 then .done else .failed))

/-- The follows and period checks of an order that the steps before them pass (R10), and the loop check (R11): it fails
exactly when the walk along the cached orders of part-owned slots, from the slot named, reaches the slot being armed.
The steps before them (R7 to R9, Table 1-5): the first that fails gives the code. -/
def Obligations.FollowsAndPeriodChecks : Prop :=
  (∀ (m : Part) (n : SlotNo) (o : Order), m.orderCheck n { o with follows := 0xFF, period := 0 } = none →
    (o.follows = 0xFF → m.orderCheck n o = none) ∧
    (o.follows ≠ 0xFF → (15 < o.follows.toNat ∨ o.follows.toNat = n.val) → m.orderCheck n o = some 0x28) ∧
    (o.follows.toNat ≤ 15 → o.follows.toNat ≠ n.val →
      (o.period ≠ 0 → m.orderCheck n o = some 0x29) ∧
      (o.period = 0 →
        (m.orderCheck n o = none ∨ m.orderCheck n o = some 0x2A) ∧
        (m.orderCheck n o = some 0x2A ↔ ∃ (walk : Nat → SlotNo) (k : Nat), k ≤ 15 ∧
          walk 0 = Fin.ofNat 16 o.follows.toNat ∧ walk k = n ∧
          ∀ i, i < k → (m.slot (walk i)).state.partOwned = true ∧ (m.slot (walk i)).order.follows ≠ 0xFF ∧
            walk (i + 1) = Fin.ofNat 16 (m.slot (walk i)).order.follows.toNat)))) ∧
  ∀ (m : Part) (n : SlotNo) (o : Order),
    let s := m.portSetup (Fin.ofNat 4 o.port.toNat)
    let e := m.tableEntry (Fin.ofNat 8 o.localTable.toNat)
    let code := m.orderCheck n o
    let bits : Prop := o.kind = 0x12 ∨ o.kind = 0x14
    let locally : Prop := o.kind = 0x11 ∨ o.kind = 0x13 ∨ bits
    let portOk : Prop := o.port.toNat ≤ 3 ∧ (s.roleOf = .master ∨ s.roleOf = .peer)
    let kindOk : Prop := 0x11 ≤ o.kind.toNat ∧ o.kind.toNat ≤ 0x17
    let stationOk : Prop :=
      (o.station = 255 → (o.kind = 0x13 ∨ o.kind = 0x14 ∨ o.kind = 0x17) ∧ s.roleOf = .master) ∧
      (s.roleOf = .peer → o.station = s.partnerStation)
    let countOk : Prop := locally → 1 ≤ o.count.toNat ∧ (bits → o.count.toNat ≤ 960) ∧ (¬bits → o.count.toNat ≤ 120)
    let tableOk : Prop := locally → o.localTable.toNat ≤ 7 ∧ e.present.getLsbD 0 = true ∧ (e.kind = 1 ↔ bits) ∧
      o.localIndex.toNat + o.count.toNat ≤ e.length.toNat
    let remoteOk : Prop := locally ∨ o.kind = 0x15 → o.remoteTable.toNat ≤ 7
    (¬portOk → code = some 0x21) ∧
    (portOk → ¬kindOk → code = some 0x22) ∧
    (portOk → kindOk → ¬stationOk → code = some 0x23) ∧
    (portOk → kindOk → stationOk → ¬countOk → code = some 0x24) ∧
    (portOk → kindOk → stationOk → countOk → ¬tableOk → code = some 0x25) ∧
    (portOk → kindOk → stationOk → countOk → tableOk → ¬remoteOk → code = some 0x26) ∧
    (portOk → kindOk → stationOk → countOk → tableOk → remoteOk →
      (7 < o.retries.toNat → code = some 0x27) ∧
      (o.retries.toNat ≤ 7 → o.follows = 0xFF → code = none))

/-- R53: two claims conflict when one is a HOLD, or when their ranges overlap and one is EXCLUSIVE; in a BITS
table the ranges are rounded out to whole bytes. The arrival of a port's claim (R51, R53, R56): it stands at the
tail of its table's list, granted with the port's access started (R90, R100, R116) when it conflicts with no
claim there, and WAITING with its wait limit running when it conflicts with one. The claim unit takes what
reaches it in order (log 13). -/
def Obligations.ConflictFollowsRanges : Prop :=
  (∀ (m : Part) (base : Word) (p : PortNo) (t : TableNo) (mode : ClaimMode) (first count : Nat) (rest : List ClaimInput),
    m.inbox = .arrive p t mode first count :: rest → m.waits .claimUnit = false →
    let c (granted : Bool) : Claim := ⟨.port p, mode, first, count, granted⟩
    let l := m.claimList t
    let free : Prop := ∀ d ∈ l, conflict (m.tableEntry t).isBits (c false) d = false
    let listed (granted : Bool) : Part := { m with inbox := rest, claims := m.claims.set t (l ++ [c granted]) }
    (free → m.claimStep base = some ((listed true).claimGranted p)) ∧
    (¬free → m.claimStep base = some (listed false) ∧ (listed false).waitLimitRuns p = true)) ∧
  ∀ (a b : Claim), 1 ≤ a.count → 1 ≤ b.count →
    (conflict false a b = true ↔ a.mode = .hold ∨ b.mode = .hold ∨
      ((∃ e, a.first ≤ e ∧ e < a.first + a.count ∧ b.first ≤ e ∧ e < b.first + b.count) ∧
        (a.mode = .exclusive ∨ b.mode = .exclusive))) ∧
    (conflict true a b = true ↔ a.mode = .hold ∨ b.mode = .hold ∨
      ((∃ e f, a.first ≤ e ∧ e < a.first + a.count ∧ b.first ≤ f ∧ f < b.first + b.count ∧ e / 8 = f / 8) ∧
        (a.mode = .exclusive ∨ b.mode = .exclusive)))

/-- R148, Table 8-4: the presence machine at step 4 of a sweep. -/
def Obligations.PresenceFollowsHostMark : Prop :=
  (∀ (m : Part) (base : Word), m.afterHold base 7 = m.evaluatePresence.setSweepPhase (.report 0)) ∧
  ∀ m : Part,
    let w := m.sweep
    let l := m.setup.global.silenceLimit
    let v := m.evaluatePresence
    v.sweep.lastMark = some w.markRead ∧
    (w.lastMark = none → v = { m with sweep := { w with lastMark := some w.markRead } }) ∧
    ∀ k, w.lastMark = some k →
      (w.markRead ≠ k → v.sweep.silence = 0 ∧ v.sweep.presence = .present ∧ v.causes = m.causes) ∧
      (w.markRead = k → w.presence = .absent →
        v.sweep.silence = w.silence ∧ v.sweep.presence = .absent ∧ v.causes = m.causes) ∧
      (w.markRead = k → w.presence = .present → l = 0 →
        v.sweep.silence = 0 ∧ v.sweep.presence = .present ∧ v.causes = m.causes) ∧
      (w.markRead = k → w.presence = .present → w.silence.toNat + 1 < l.toNat →
        v.sweep.silence = w.silence + 1 ∧ v.sweep.presence = .present ∧ v.causes = m.causes) ∧
      (w.markRead = k → w.presence = .present → w.silence.toNat + 1 = l.toNat →
        v.sweep.silence = l ∧ v.sweep.presence = .absent ∧ v.causes = m.causes ||| 4)

/-! ### Setup -/

/-- R169: the checks of the global setup, on the 32 bytes read. R170, Table 10-6: the checks of the port setups, once
the global setup passes. R47, R48: the checks of the directory entries in ascending order and then of the overlaps, once
the port setups pass. The reads of LOADING (R168, Table 10-5) follow each other in the order of the checks and keep what
they read; a failed check ends the load in STOPPED with its code and the STOPPED cause (R171); after the last adoption
read the setup is adopted (R172). An offset of the exchange area lies at BASE plus the offset (R165, R184); where that
is beyond the 32-bit space its place is a free value (log 4). The fields lie where Tables 12-4 to 12-6 put them, low
byte first (R184). The area is taken from BASE to BASE + 0x7FF without wrap, for every BASE, which is the model's (log
4, DESIGN CHOICE; log 35, DEDUCED). -/
def Obligations.GlobalAndPortSetupChecks : Prop :=
  (∀ (base : Word) (bytes : List Byte) (ports : Vector PortSetup 4) (tables : Vector TableEntry 8),
    let code := setupCheck base ⟨GlobalSetup.ofBytes bytes, ports, tables⟩
    (wordAt bytes 0 ≠ 0x0000416A → code = 1) ∧
    (wordAt bytes 0 = 0x0000416A → (byteAt bytes 4 = 0 ∨ byteAt bytes 6 = 0) → code = 2) ∧
    (wordAt bytes 0 = 0x0000416A → byteAt bytes 4 ≠ 0 → byteAt bytes 6 ≠ 0 → code ≠ 1 ∧ code ≠ 2) ∧
    ∀ bytes' : List Byte, wordAt bytes' 0 = wordAt bytes 0 → byteAt bytes' 4 = byteAt bytes 4 →
      byteAt bytes' 6 = byteAt bytes 6 → setupCheck base ⟨GlobalSetup.ofBytes bytes', ports, tables⟩ = code) ∧
  (∀ x : PortSetup, portSetupFails x = true ↔
    3 < x.role.toNat ∨
    ((x.role = 1 ∨ x.role = 2 ∨ x.role = 3) ∧
      (7 < x.speed.toNat ∨ 2 < x.parity.toNat ∨ x.gapLimit.toNat < 2 ∨ 15 < x.gapLimit.toNat)) ∨
    ((x.role = 1 ∨ x.role = 3) ∧ (x.replyTimeout.toNat < 5 ∨ 5000 < x.replyTimeout.toNat)) ∨
    ((x.role = 2 ∨ x.role = 3) ∧ 254 < x.ownStation.toNat) ∨
    (x.role = 3 ∧ (254 < x.partnerStation.toNat ∨ x.partnerStation = x.ownStation ∨
      x.bidLimit.toNat < 1 ∨ 31 < x.bidLimit.toNat))) ∧
  (∀ (base : Word) (x : Setup), x.global.signature = 0x0000416A → x.global.sweepInterval ≠ 0 →
    x.global.claimWaitLimit ≠ 0 →
    let size (e : TableEntry) : Nat := if e.kind = 1 then (e.length.toNat + 7) / 8 else 2 * e.length.toNat
    let holds (e : TableEntry) (a : Nat) : Prop :=
      e.present.getLsbD 0 = true ∧ e.base.toNat ≤ a ∧ a < e.base.toNat + size e
    let fails (e : TableEntry) : Prop := e.present.getLsbD 0 = true ∧
      (1 < e.kind.toNat ∨ 2 < e.access.toNat ∨ e.length = 0 ∨ 65535 < e.length.toNat ∨
        (e.kind = 0 ∧ e.base.toNat % 2 = 1) ∨ 2 ^ 32 < e.base.toNat + size e)
    let overlap : Prop :=
      (∃ (t : TableNo) (a : Nat), holds (x.tables.get t) a ∧ base.toNat ≤ a ∧ a < base.toNat + 0x800) ∨
      ∃ (t u : TableNo) (a : Nat), t ≠ u ∧ holds (x.tables.get t) a ∧ holds (x.tables.get u) a
    (∀ p : PortNo, portSetupFails (x.ports.get p) = true → (∀ q, q < p → portSetupFails (x.ports.get q) = false) →
      setupCheck base x = 3 + BitVec.ofNat 4 p.val) ∧
    ((∀ p, portSetupFails (x.ports.get p) = false) →
      (∀ t : TableNo, fails (x.tables.get t) → (∀ u, u < t → ¬fails (x.tables.get u)) →
        setupCheck base x = 7 + BitVec.ofNat 4 t.val) ∧
      ((∀ t, ¬fails (x.tables.get t)) →
        (overlap → setupCheck base x = 15) ∧ (¬overlap → setupCheck base x = 0)))) ∧
  (∀ (base : Word) (offset : Nat), base.toNat + offset < 2 ^ 32 → areaAddress base offset = base.toNat + offset) ∧
  (∀ (bytes : List Byte) (i : Nat),
    (halfAt bytes i).toNat = (byteAt bytes i).toNat + 256 * (byteAt bytes (i + 1)).toNat ∧
    (wordAt bytes i).toNat = (halfAt bytes i).toNat + 65536 * (halfAt bytes (i + 2)).toNat ∧
    GlobalSetup.ofBytes bytes = {
      signature := wordAt bytes 0, sweepInterval := byteAt bytes 4, silenceLimit := byteAt bytes 5
      claimWaitLimit := byteAt bytes 6 } ∧
    PortSetup.ofBytes bytes = {
      role := byteAt bytes 0, speed := byteAt bytes 1, parity := byteAt bytes 2, ownStation := byteAt bytes 3
      partnerStation := byteAt bytes 4, gapLimit := byteAt bytes 5, turnaround := byteAt bytes 6
      bidLimit := byteAt bytes 7, replyTimeout := halfAt bytes 8 } ∧
    TableEntry.ofBytes bytes = {
      present := byteAt bytes 0, kind := byteAt bytes 1, access := byteAt bytes 2, notify := byteAt bytes 3
      base := wordAt bytes 4, length := wordAt bytes 8 }) ∧
  ∀ (m : Part) (base : Word) (bytes : List Byte),
    let l := m.loader
    let t := m.loaderReadDone base bytes
    let reads (loader : Loader) (offset len : Nat) : Prop :=
      t = { m with loader := loader, sweepAccess := some (.read (areaAddress base offset) len []) }
    let last : Setup := { l.candidate with tables := l.candidate.tables.set 7 (TableEntry.ofBytes bytes) }
    (l.phase = .setupRead 0 → reads { l with
      candidate := { l.candidate with global := GlobalSetup.ofBytes bytes }, phase := .setupRead 1 } 0x060 32) ∧
    (∀ p : PortNo, l.phase = .setupRead (p.val + 1) → reads { l with
      candidate := { l.candidate with ports := l.candidate.ports.set p (PortSetup.ofBytes bytes) }
      phase := .setupRead (p.val + 2) }
      (if p.val < 3 then 0x060 + 32 * (p.val + 1) else 0x100) (if p.val < 3 then 32 else 12)) ∧
    (∀ u : TableNo, u.val < 7 → l.phase = .setupRead (u.val + 5) → reads { l with
      candidate := { l.candidate with tables := l.candidate.tables.set u (TableEntry.ofBytes bytes) }
      phase := .setupRead (u.val + 6) } (0x100 + 32 * (u.val + 1)) 12) ∧
    (l.phase = .setupRead 12 →
      (setupCheck base last = 0 → reads { l with candidate := last, phase := .adoptRead 0 } 0x420 4) ∧
      (setupCheck base last ≠ 0 → t = { m with
        engine := .stopped, setupError := setupCheck base last, loader := Loader.reset, causes := m.causes ||| 8 })) ∧
    (∀ n : SlotNo, l.phase = .adoptRead n.val → reads { l with
      hostWords := l.hostWords.set n (wordAt bytes 0), phase := .adoptRead (n.val + 1) }
      (if n.val < 15 then 0x420 + 64 * (n.val + 1) else 0x10C) 4) ∧
    (∀ u : TableNo, u.val < 7 → l.phase = .adoptRead (u.val + 16) → reads { l with
      holdWords := l.holdWords.set u (wordAt bytes 0), phase := .adoptRead (u.val + 17) }
      (0x10C + 32 * (u.val + 1)) 4) ∧
    (l.phase = .adoptRead 23 → t = { m with
      setup := l.candidate, loader := { l with holdWords := l.holdWords.set 7 (wordAt bytes 0), phase := .adopting 0 } })

/-! ### The memory port -/

/-- A bit write (R157): of the whole bytes written, the bits of the range are those of the data, a bit outside it in the
first byte is that of the first edge byte, and a bit outside it elsewhere that of the last. A bit run taken from whole
bytes (R81, R90, R117) holds the bits of the range, and 0 beyond them. The accesses of a granted deposit or store in a
BITS table (R100, R118, R157): the first edge byte is read when the range does not fill it, then the last one, and then
the whole bytes are written; in a WORDS table the words are written at once. -/
def Obligations.BitWriteKeepsBitsOutsideRange : Prop :=
  (∀ (data : List Byte) (offset count len : Nat) (edgeFirst edgeLast : Byte) (i : Nat), i < 8 * len →
    (mergeBits data offset count len edgeFirst edgeLast).length = len ∧
    bitAt (mergeBits data offset count len edgeFirst edgeLast) i =
      if offset ≤ i ∧ i < offset + count then bitAt data (i - offset)
      else if i < 8 then edgeFirst.getLsbD (i % 8) else edgeLast.getLsbD (i % 8)) ∧
  (∀ (raw : List Byte) (offset count i : Nat),
    (extractBits raw offset count).length = (count + 7) / 8 ∧
    (i < 8 * ((count + 7) / 8) →
      bitAt (extractBits raw offset count) i = if i < count then bitAt raw (offset + i) else false)) ∧
  ∀ (m : Part) (p : PortNo) (t : TableNo) (first count : Nat),
    let x : Port := m.port p
    let e := m.tableEntry t
    let addr := e.base.toNat + first / 8
    let len := (first + count - 1) / 8 - first / 8 + 1
    let firstNeeded : Prop := first % 8 ≠ 0 ∨ (len = 1 ∧ (first + count) % 8 ≠ 0)
    let lastNeeded : Prop := len ≠ 1 ∧ (first + count) % 8 ≠ 0
    let readLast (y : Port) : Port := { y with access := some (.read (addr + len - 1) 1 []), memStep := .edgeLast }
    let writeAll (y : Port) : Port := { y with
      access := some (.write addr (mergeBits (y.dataHold.drop 5) (first % 8) count len y.edgeFirst y.edgeLast))
      memStep := .span }
    (x.activity = .serving ∧ isStore x.service.kind = true ∧ t = tableNo x.service.table ∧
        first = x.service.index.toNat ∧ count = x.service.count.toNat) ∨
      (x.activity = .depositing ∧ ∃ w, x.run.work = some w ∧ t = tableNo w.order.localTable ∧
        first = w.order.localIndex.toNat ∧ count = w.order.count.toNat) →
    (e.kind ≠ 1 → m.claimGranted p = m.setPort p { x with
      access := some (.write (e.base.toNat + 2 * first) ((x.dataHold.drop 5).take (2 * count))), memStep := .span }) ∧
    (e.kind = 1 →
      (firstNeeded → m.claimGranted p =
        m.setPort p { x with access := some (.read addr 1 []), memStep := .edgeFirst }) ∧
      (¬firstNeeded → lastNeeded → m.claimGranted p = m.setPort p (readLast x)) ∧
      (¬firstNeeded → ¬lastNeeded → m.claimGranted p = m.setPort p (writeAll x)) ∧
      ∀ raw : List Byte,
        (x.memStep = .edgeFirst → lastNeeded →
          m.portAccessDone p raw = m.setPort p (readLast { x with edgeFirst := byteAt raw 0 })) ∧
        (x.memStep = .edgeFirst → ¬lastNeeded →
          m.portAccessDone p raw = m.setPort p (writeAll { x with edgeFirst := byteAt raw 0 })) ∧
        (x.memStep = .edgeLast →
          m.portAccessDone p raw = m.setPort p (writeAll { x with edgeLast := byteAt raw 0 })))

/-- BURST_ANSWERED (R154, R159): an answered burst of the sweep unit or of a port delivers its bytes and leaves the rest
of the access, or ends it, when what a sweep unit has read goes to engine control in LOADING (R168) and to the sweep
otherwise (R144); an answered burst of an entry takes its bytes to memory, the rest of a piece or the next piece
follows, and the last takes the entry from the queue. The access of a granted read, and what the end of a port's access
brings: a store order's data read (R90) frees the claim, forms the request and starts the first attempt; a deposit
written (R100) frees the claim and ends the run OK; a fetch (R117) frees the claim and replies with the data; a store
written (R118) goes to the claim unit; the old value of MODIFY_WORD read (R119) is replaced by (old AND and mask) OR or
mask. What the check register and the length hold in HUNT is the model's (log 40). -/
def Obligations.AnsweredBurstAdvancesAccess : Prop :=
  (∀ (s : State) (answer : BusAnswer), s.window.resetAsserted = false →
    (∀ (p : PortNo) (b : Burst) (a : Access), s.part.bus = some b → b.who = .port p → b.discarded = false →
      b.event = answer.event → (s.part.port p).access = some a →
      let m : Part := { s.part.tick with bus := none }
      let goesOn (a : Access) : Part := m.setPort p { s.part.port p with access := some a }
      let ends (raw : List Byte) : Part := (m.setPort p { s.part.port p with access := none }).portAccessDone p raw
      let data := answer.data.toList.take b.len
      (∀ addr left got, a = .read addr left got →
        (b.len < left → exec (.burstAnswered answer) s =
          .next (s.ends (goesOn (.read (addr + b.len) (left - b.len) (got ++ data))))) ∧
        (left ≤ b.len → exec (.burstAnswered answer) s = .next (s.ends (ends (got ++ data))))) ∧
      ∀ addr bytes, a = .write addr bytes →
        let mem := Memory.writeBytes s.memory b.addr (bytes.take b.len)
        (b.len < bytes.length → exec (.burstAnswered answer) s = .next
          { s.ends (goesOn (.write (addr + b.len) (bytes.drop b.len))) with memory := mem }) ∧
        (bytes.length ≤ b.len → exec (.burstAnswered answer) s = .next { s.ends (ends []) with memory := mem })) ∧
    (∀ (b : Burst) (addr left : Nat) (got : List Byte), s.part.bus = some b → b.who = .sweep → b.discarded = false →
      b.event = answer.event → s.part.sweepAccess = some (.read addr left got) →
      let m : Part := { s.part.tick with bus := none }
      let data := got ++ answer.data.toList.take b.len
      (b.len < left → exec (.burstAnswered answer) s = .next (s.ends
        { m with sweepAccess := some (.read (addr + b.len) (left - b.len) data) })) ∧
      (left ≤ b.len → s.part.engine = .loading → exec (.burstAnswered answer) s =
        .next (s.ends (({ m with sweepAccess := none } : Part).loaderReadDone s.window.base data))) ∧
      (left ≤ b.len → s.part.engine ≠ .loading → exec (.burstAnswered answer) s =
        .next (s.ends (({ m with sweepAccess := none } : Part).sweepReadDone s.window.base data)))) ∧
    (∀ (piece : Piece) (more : List Piece) (rest : List Entry) (len : Nat), s.part.xq = ⟨piece :: more⟩ :: rest →
      s.part.bus = some ⟨.writer, piece.addr, len, false, answer.event⟩ →
      let written (xq : List Entry) : Prop :=
        exec (.burstAnswered answer) s = .next { s.ends { s.part.tick with bus := none, xq := xq } with
          memory := Memory.writeBytes s.memory piece.addr (piece.bytes.take len) }
      (len < piece.bytes.length → written (⟨⟨piece.addr + len, piece.bytes.drop len⟩ :: more⟩ :: rest)) ∧
      (piece.bytes.length ≤ len → more ≠ [] → written (⟨more⟩ :: rest)) ∧
      (piece.bytes.length ≤ len → more = [] → written rest))) ∧
  ∀ (m : Part) (p : PortNo),
    let x : Port := m.port p
    let v : Service := x.service
    let r : Run := x.run
    let range (t : TableNo) (first count : Nat) : Nat × Nat :=
      if (m.tableEntry t).kind = 1 then
        ((m.tableEntry t).base.toNat + first / 8, (first + count - 1) / 8 - first / 8 + 1)
      else ((m.tableEntry t).base.toNat + 2 * first, 2 * count)
    let reads (span : Nat × Nat) (step : MemStep) : Prop :=
      m.claimGranted p = m.setPort p { x with access := some (.read span.1 span.2 []), memStep := step }
    let served := range (tableNo v.table) v.index.toNat v.count.toNat
    let told (i : ClaimInput) (y : Port) : Part := { m.setPort p y with inbox := m.inbox ++ [i] }
    let echo : List Byte := [v.table] ++ halfBytes v.index ++ halfBytes v.count
    (∀ w, x.activity = .preparing → r.work = some w →
      reads (range (tableNo w.order.localTable) w.order.localIndex.toNat w.order.count.toNat) .read) ∧
    (x.activity = .serving → isFetch v.kind = true → reads served .read) ∧
    (x.activity = .serving → v.kind = 0x15 → reads served .modifyRead) ∧
    ∀ raw : List Byte,
      (∀ w, x.memStep = .read → x.activity = .preparing → r.work = some w → isStore w.order.kind = true →
        (m.portSetup p).role = 1 ∨ (m.portSetup p).role = 3 →
        let o := w.order
        let data := if o.kind = 0x14 then extractBits raw (o.localIndex.toNat % 8) o.count.toNat else raw
        m.portAccessDone p raw = told (.leave p) (({ x with
          txBuffer := frameProper o.station o.kind r.tag
            ([o.remoteTable] ++ halfBytes o.remoteIndex ++ halfBytes o.count ++ data) } : Port).startsAttempt
          (m.portSetup p) m.eventNo)) ∧
      (∀ w, x.memStep = .span → x.activity = .depositing → r.work = some w →
        m.portAccessDone p raw = { told (.leave p) { x with
            activity := .idle, memStep := .none, run := { r with ending := some ⟨0, 0⟩ } } with
          jobs := m.jobs ++ [⟨.runEnding p, m.eventNo⟩] }) ∧
      (x.memStep = .read → x.activity = .serving →
        m.portAccessDone p raw = (told (.leave p) x).reply p
          (echo ++ if v.kind = 0x12 ∨ v.kind = 0x14 then extractBits raw (v.index.toNat % 8) v.count.toNat else raw)) ∧
      ((x.memStep = .span ∧ x.activity = .serving) ∨ x.memStep = .modifyWrite →
        m.portAccessDone p raw = told (.stored p) { x with memStep := .none }) ∧
      (x.memStep = .modifyRead → x.activity = .serving →
        m.portAccessDone p raw = m.setPort p { x with
          access := some (.write served.1 (halfBytes ((halfAt raw 0 &&& v.andMask) ||| v.orMask)))
          memStep := .modifyWrite, oldValue := halfAt raw 0 })

/-- BUS_ERROR and BUS_ANSWER_TIMEOUT on an exchange-area access (R162, R176): FAULTED, with the code and the address of
the burst, FAULT set, everything in flight discarded, the work held by the slot manager, the claim unit and engine
control and each port's run, service and peer records, replay memory and access among it (R26, R51, R106, R127, R140),
the holds FREE, and counts, presence, tallies, fault records, tag counters and the rest of the table records kept.
BUS_ERROR and BUS_ANSWER_TIMEOUT on a port's access (Table 9-5): the claim is released and the fault record holds bus
error; a master run ends TABLE_FAULT (R91, R101), and a service is refused HOST_FAULT with its replay memory emptied
(R112, R120, R122), or, for a broadcast, only ends (R124). What the part discards takes its initial value in the model
(log 22); what the check register and the length hold in HUNT is the model's (log 40). -/
def Obligations.BusErrorsFaultEngineOrEndRun : Prop :=
  (∀ (s : State) (c : Instr) (b : Burst), c = .busError ∨ c = .busAnswerTimeout → s.window.resetAsserted = false →
    s.part.bus = some b → b.discarded = false → b.who = .sweep ∨ b.who = .writer →
    ∃ t, exec c s = .next t ∧ t.part.engine = .faulted ∧
      t.part.faultAddress = BitVec.ofNat 32 b.addr ∧
      t.part.faultCode = (if b.who = .writer then .exchangeWrite
        else if s.part.engine = .loading then .loadRead else .sweepRead) ∧
      t.part.causes = s.part.causes ||| 16 ∧ t.part.bus = none ∧ t.part.sweepAccess = none ∧ t.part.xq = [] ∧
      t.part.waiters = [] ∧ t.part.slots = Vector.replicate 16 Slot.reset ∧
      t.part.tree = [] ∧ t.part.jobs = [] ∧ t.part.inbox = [] ∧ t.part.loader = Loader.reset ∧
      t.part.stopSequence = none ∧ t.part.clearPending = [] ∧
      (∀ p, t.part.queue p = [] ∧ (t.part.port p).activity = .offline ∧ (t.part.port p).drven = false ∧
        (t.part.port p).run = Run.initial ∧ (t.part.port p).access = none ∧
        (t.part.port p).service = Service.initial ∧ (t.part.port p).peer = Peer.initial ∧
        (t.part.port p).replay = none ∧
        (t.part.port p).tallies = (s.part.port p).tallies ∧ (t.part.port p).fault = (s.part.port p).fault ∧
        t.part.port p = { Port.reset with
          activity := .offline, tallies := (s.part.port p).tallies, fault := (s.part.port p).fault
          tagCounter := (s.part.port p).tagCounter }) ∧
      (∀ u, t.part.claimList u = [] ∧ t.part.table u = { s.part.table u with holdState := .free }) ∧
      t.part.sweep = { s.part.sweep with phase := .idle, timer := false, pending := false } ∧
      t.window = s.window) ∧
  ∀ (s : State) (c : Instr) (p : PortNo) (b : Burst) (a : Access),
    c = .busError ∨ c = .busAnswerTimeout → s.window.resetAsserted = false →
    s.part.bus = some b → b.who = .port p → b.discarded = false → (s.part.port p).access = some a →
    let x : Port := { s.part.port p with access := none, memStep := .none }
    let v : Service := x.service
    let r : Run := x.run
    let becomes (y : Port) (jobs : List Job) : Prop :=
      ∃ t, exec c s = .next t ∧ t.window = s.window ∧
        t.part = Part.finish s.window.base { s.part.tick.setPort p y with
          bus := none, inbox := s.part.inbox ++ [.leave p], jobs := jobs }
    (∀ w, x.activity = .preparing ∨ x.activity = .depositing → r.work = some w →
      becomes { x with
        activity := .idle
        fault := ⟨.busError, BitVec.ofNat 8 w.slot.val, w.order.station, w.order.kind, r.tag, 0, s.part.sweep.count⟩
        run := { r with ending := some ⟨0x15, 0⟩ } } (s.part.jobs ++ [⟨.runEnding p, s.part.eventNo + 1⟩])) ∧
    (x.activity = .serving →
      let y : Port := { x with
        fault := ⟨.busError, 0xFF, v.station, v.kind, v.tag, 8, s.part.sweep.count⟩
        tallies := { x.tallies with refusalsSent := satHalf x.tallies.refusalsSent } }
      let z : Port := { y with
        answerBuffer := frameProper v.station 0x7E v.tag [v.kind, 8]
        replay := none
        service := { v with result := .refusal 8 } }
      (v.broadcast = true → becomes { y with activity := .idle } s.part.jobs) ∧
      (v.broadcast = false → x.answerDelay = true → becomes { z with activity := .turnaround } s.part.jobs) ∧
      (v.broadcast = false → x.answerDelay = false → becomes { z with
        activity := .replying, tx := some .answer, silence := false
        receiver := { state := .hunt, buffer := [], bodyLength := none, check := 0xFFFF } } s.part.jobs))

/-- R154: the pending burst of an access, and of the first piece of the head entry (R159), starts at its next byte and
runs to its last byte or to the next 64-byte boundary, whichever comes first; a requester with no access, and the writer
with an empty queue, has none. R155: a free bus goes to the first requester with a pending burst, searching the circle
sweep unit, port 0 to port 3, exchange writer from the pointer, and the pointer moves to the place behind; a busy bus is
not granted. The burst carries the event of its grant (log 32). -/
def Obligations.BusIsGrantedInRotation : Prop :=
  ∀ m : Part,
    (let burst (addr left : Nat) : Nat × Nat := (addr, min left (64 - addr % 64))
    let follows (who : Requester) (access : Option Access) : Prop :=
      (access = none → m.pendingBurst who = none) ∧
      (∀ addr left got, access = some (.read addr left got) → m.pendingBurst who = some (burst addr left)) ∧
      ∀ addr bytes, access = some (.write addr bytes) → m.pendingBurst who = some (burst addr bytes.length)
    follows .sweep m.sweepAccess ∧ (∀ p, follows (.port p) (m.port p).access) ∧
    (m.xq = [] → m.pendingBurst .writer = none) ∧
    ∀ (piece : Piece) (more : List Piece) (rest : List Entry), m.xq = ⟨piece :: more⟩ :: rest →
      m.pendingBurst .writer = some (burst piece.addr piece.bytes.length)) ∧
    (m.bus ≠ none → m.grantBus = m) ∧
    (m.bus = none → (∀ who, m.pendingBurst who = none) → m.grantBus = m) ∧
    ∀ (before after : List Requester) (who : Requester) (addr len : Nat), m.bus = none →
      (∃ u v, [.sweep, .port 0, .port 1, .port 2, .port 3, .writer] = u ++ v ∧ v.head? = some m.pointer ∧
        v ++ u = before ++ who :: after) →
      (∀ w ∈ before, m.pendingBurst w = none) → m.pendingBurst who = some (addr, len) →
      m.grantBus = { m with
        bus := some ⟨who, addr, len, false, m.eventNo⟩
        pointer := match who with
          | .sweep => .port 0
          | .port 0 => .port 1
          | .port 1 => .port 2
          | .port 2 => .port 3
          | .port 3 => .writer
          | .writer => .sweep }

/-! ### Room in the exchange write queue (R160) -/

/-- The slot manager with no delivery tree in progress takes its jobs in order: with room at once, and else when
DEFERRED_RUN_COMPLETION or DEFERRED_POST_ENTRY gives it room as the producer that has waited longest (R160; log 10), it
takes a run's ending as a completion (R20, R105; delivered in RUNNING, R25), after which the run record holds its
initial values in the model (log 23, DESIGN CHOICE), and queues the part word of a post or the entry of a rejection (R5,
R12). A period expiry needs no room; those behind an entry that waits are taken meanwhile (R39, Table 2-2; log 12), and
the wait counts from the event at which the job came (log 38). With a tree in progress the room is the tree's:
DEFERRED_POST_ENTRY queues the part word at its head (R15), and DEFERRED_DELIVERY_ENTRY completes the next follower (R34
to R36), in RUNNING by these rules, and in STOPPING because the model finishes a tree that STOP finds in progress (log
16, DESIGN CHOICE; R39, R174 and Table 2-5 deliver nothing there). A part word has the values of the slot at its queuing
(R5), but for a take's, which shows the state the take rules reached, QUEUED or for a follower TAKEN, also when its port
has taken the slot meanwhile (R13, R29; log 42, DESIGN CHOICE beside R5). Without room, or with a producer that has
waited longer, or none waiting, such a command only passes (R160; logs 7, 10). -/
def Obligations.SlotManagerGoesOnWithRoom : Prop :=
  let takes (m : Part) (base : Word) (k : JobKind) (t : Part) : Prop :=
    (∀ (p : PortNo) (w : Work) (e : RunEnding), k = .runEnding p → (m.port p).run.work = some w →
      (m.port p).run.ending = some e →
      let r : Run := (m.port p).run
      let m1 : Part := m.setPort p { m.port p with run := ⟨none, 0, 0, 1, none, zeroReply, false, none⟩ }
      let c : Completion := ⟨e.outcome, e.reason, BitVec.ofNat 8 r.started, r.tag,
        if e.outcome = 0 then r.replyData else zeroReply, .none⟩
      t = if m.engine = .running then m1.completeAndDeliver base w.slot c else m1.complete base w.slot c) ∧
    (∀ n : SlotNo, k = .postWord n → t = { m with
      xq := m.xq ++ [⟨[⟨areaAddress base (0x400 + 64 * n.val + 0x24), partWordBytes (m.slot n)⟩]⟩] }) ∧
    (∀ n : SlotNo, k = .takeWord n → t = { m with
      xq := m.xq ++ [⟨[⟨areaAddress base (0x400 + 64 * n.val + 0x24), partWordBytes { m.slot n with
        state := if (m.slot n).order.follows = 0xFF then .queued else .taken }⟩]⟩] }) ∧
    ∀ (n : SlotNo) (notify : Bool), k = .rejection n notify → t = { m with
      xq := m.xq ++ [⟨[
        ⟨areaAddress base (0x400 + 64 * n.val + 0x2C), resultBytes (m.slot n).result⟩,
        ⟨areaAddress base (0x400 + 64 * n.val + 0x24), partWordBytes (m.slot n)⟩]⟩]
      causes := if notify then m.causes ||| 1 else m.causes }
  let expires (m : Part) (n : SlotNo) : Part :=
    if m.engine = .running ∧ m.sweep.presence = .present ∧ (m.slot n).periodTimer = true then m.trigger n else m
  let noEntry (l : List Job) : Prop := ∀ j ∈ l, ∃ n, j.kind = .expiry n
  let noExpiry (l : List Job) : Prop := ∀ j ∈ l, ∀ n, j.kind ≠ .expiry n
  (∀ (m : Part) (base : Word) (j : Job) (rest : List Job), m.tree = [] → m.jobs = j :: rest →
    (∀ n : SlotNo, j.kind = .expiry n → m.jobStep base = some (expires { m with jobs := rest } n)) ∧
    (noExpiry [j] →
      (¬m.isWaiting .slotManager → m.roomAtOnce →
        ∃ t, m.jobStep base = some t ∧ takes { m with jobs := rest } base j.kind t) ∧
      (m.isWaiting .slotManager ∨ ¬m.roomAtOnce →
        (∀ (before after : List Job) (n : SlotNo) (k : Nat), rest = before ++ ⟨.expiry n, k⟩ :: after →
          noExpiry before → m.jobStep base = some (expires { m with jobs := j :: before ++ after } n)) ∧
        (noExpiry rest →
          (m.isWaiting .slotManager → m.jobStep base = none) ∧
          (¬m.isWaiting .slotManager → m.jobStep base = some
            { m with waiters := m.waiters ++ [⟨.slotManager, j.since⟩] }))))) ∧
  (∀ (s : State) (since : Nat), s.window.resetAsserted = false → s.part.engine.working = true →
    s.part.firstInLine .slotManager since →
    let others := s.part.waiters.filter fun w => w.who != .slotManager
    (∀ (j : Job) (before rest : List Job), noEntry before → s.part.tree = [] → s.part.jobs = before ++ j :: rest →
      let m : Part := { s.part.tick with jobs := before ++ rest, waiters := others }
      ((∃ p, j.kind = .runEnding p) →
        ∃ t, exec .deferredRunCompletion s = .next (s.ends t) ∧ takes m s.window.base j.kind t) ∧
      ((∃ n, j.kind = .postWord n ∨ j.kind = .takeWord n ∨ ∃ notify, j.kind = .rejection n notify) →
        ∃ t, exec .deferredPostEntry s = .next (s.ends t) ∧ takes m s.window.base j.kind t)) ∧
    (∀ (n : SlotNo) (rest : List TreeTask), s.part.tree = .word n :: rest →
      exec .deferredPostEntry s = .next (s.ends { s.part.tick with
        tree := rest, waiters := others
        xq := s.part.xq ++ [⟨[⟨areaAddress s.window.base (0x400 + 64 * n.val + 0x24),
          partWordBytes (s.part.slot n)⟩]⟩] })) ∧
    (∀ (n : SlotNo) (task : TreeTask) (why : ChainBreak) (rest : List TreeTask),
      (task = .failed n ∧ why = .predecessorFailed) ∨ (task = .left n ∧ why = .predecessorLeft) →
      s.part.tree = task :: rest → (s.part.slot n).state = .taken →
      exec .deferredDeliveryEntry s = .next (s.ends
        (({ s.part.tick with tree := rest, waiters := others } : Part).completeAndDeliver s.window.base n
          ⟨0x16, 0, 0, 0, zeroReply, why⟩)))) ∧
  ∀ (s : State) (c : Instr) (who : Producer), s.window.resetAsserted = false → givesRoomTo c = some who →
    (∀ since, ¬s.part.firstInLine who since) → exec c s = .next (s.ends s.part.tick)

/-- What a completion queues (R20, R23, R24): one entry, of the result record and then the part word, with the values of
the slot after it; SLOT_NOTIFY is set exactly when the cached order has notify set; no other cause, table or claim
changes. Its delivery to the followers, the part-owned slots whose order follows the slot (R33 to R37): an outcome OK
triggers them in ascending order; any other outcome is delivered to each as a failed completion; and when the slot has
left service, each that is QUEUED or ACTIVE gets the broken mark at once, and each is told. What is told or delivered to
a TAKEN follower completes it CHAIN_BROKEN, with a delivery of its own before the rest of the tree; on any other
follower it has no further effect. A task of the tree that queues an entry waits for room (R35, R160; log 10). The
tree's tasks are the same in every engine state: in STOPPING, where R39, R174 and Table 2-5 deliver nothing, a tree in
progress at STOP is finished by the model's choice (log 16, DESIGN CHOICE). The bytes are those of Tables 12-8 to 12-10
(R184 to R186). -/
def Obligations.CompletionQueuesResultThenPartWord : Prop :=
  (∀ (x : Slot) (r : ResultRecord),
    partWordBytes x = [
      (match x.state with
        | .vacant => 0
        | .taken => 1
        | .queued => 2
        | .active => 3
        | .done => 4
        | .failed => 5
        | .rejected => 6
        | .withdrawn => 7),
      (match x.postOutcome with
        | .acted => 0
        | .ignoredBusy => 1
        | .ignoredNoop => 2),
      x.seenPost.extractLsb' 0 8, x.seenPost.extractLsb' 8 8, x.completions.extractLsb' 0 8,
      x.completions.extractLsb' 8 8, 0, 0] ∧
    resultBytes r = [r.outcome, r.remoteReason, r.attempts, r.tag, r.overruns.extractLsb' 0 8,
      r.overruns.extractLsb' 8 8, 0, 0, r.sweepCount.extractLsb' 0 8, r.sweepCount.extractLsb' 8 8,
      r.sweepCount.extractLsb' 16 8, r.sweepCount.extractLsb' 24 8] ++ r.replyData.toList) ∧
  ∀ (m : Part) (base : Word) (n : SlotNo),
    (∀ c : Completion,
      let y := completedSlot (m.slot n) c m.sweep.count
      let t := m.complete base n c
      t.slot n = y ∧
      t.xq = m.xq ++ [⟨[⟨areaAddress base (0x400 + 64 * n.val + 0x2C), resultBytes y.result⟩,
        ⟨areaAddress base (0x400 + 64 * n.val + 0x24), partWordBytes y⟩]⟩] ∧
      t.causes = (if y.order.notify then m.causes ||| 1 else m.causes) ∧
      t.tables = m.tables ∧ t.claims = m.claims ∧ t.ports = m.ports ∧ t.engine = m.engine ∧
      (∀ k, k ≠ n → t.slot k = m.slot k) ∧
      t.queue y.order.portNo =
        (m.queue y.order.portNo).filter (fun k => k != n) ++ (if y.state = .queued then [n] else [])) ∧
    (∀ c : Completion,
      let t := m.complete base n c
      let u := m.completeAndDeliver base n c
      let followers := (List.finRange 16).filter fun k =>
        (t.slot k).state.partOwned && (t.slot k).order.follows == BitVec.ofNat 8 n.val
      let triggered : Part := if c.outcome = 0 then followers.foldl Part.trigger t else t
      let failed : List TreeTask := if c.outcome = 0 then [] else followers.map .failed
      ((t.slot n).state ≠ .withdrawn → u = { triggered with tree := failed ++ t.tree }) ∧
      ((t.slot n).state = .withdrawn →
        u.tree = failed ++ followers.map .left ++ t.tree ∧ u.queues = triggered.queues ∧ u.xq = t.xq ∧
        ∀ k, u.slot k =
          if k ∈ followers ∧ ((triggered.slot k).state = .queued ∨ (triggered.slot k).state = .active) then
            { triggered.slot k with brokenMark := true }
          else triggered.slot k)) ∧
    ((m.slot n).state = .taken →
      m.doTask base (.failed n) = m.completeAndDeliver base n ⟨0x16, 0, 0, 0, zeroReply, .predecessorFailed⟩ ∧
      m.doTask base (.left n) = m.completeAndDeliver base n ⟨0x16, 0, 0, 0, zeroReply, .predecessorLeft⟩) ∧
    ((m.slot n).state ≠ .taken → m.doTask base (.failed n) = m ∧ m.doTask base (.left n) = m) ∧
    m.doTask base (.word n) = { m with
      xq := m.xq ++ [⟨[⟨areaAddress base (0x400 + 64 * n.val + 0x24), partWordBytes (m.slot n)⟩]⟩] } ∧
    ∀ (task : TreeTask) (rest : List TreeTask), m.tree = task :: rest →
      let t : Part := ({ m with tree := rest } : Part).doTask base task
      let queues : Prop :=
        (∃ k, task = .word k) ∨ ∃ k, (task = .failed k ∨ task = .left k) ∧ (m.slot k).state = .taken
      (queues → m.queuesOrWaits .slotManager m.eventNo (m.treeStep base) t) ∧ (¬queues → m.treeStep base = some t)

/-- The claim unit takes its next input, whose entry, if it queues one, needs room: at once, or when
DEFERRED_TABLE_RECORD_ENTRY gives it to the claim unit as the producer that has waited longest (R59, R160; logs 10, 38).
After a responder store or modify (R63, R65, R118, R119): the tally rises by 1 modulo 65536, the last store record is
filled, the table record entry is queued, STORE_NOTIFY is set when the table's notify flag is set, the claim is freed
and the service replies, with table, index and count, or with the old and the new value. After a changed hold post (R60,
R61): it becomes the seen hold post, and the entry carries the record; wanted hold 1 puts a hold on the whole table
behind the other claims, HELD when there are none and PENDING else, and changes nothing when there is one; any other
value makes the hold FREE, and its claim leaves with the grants of R54; an unchanged one has no effect. A port's release
(R55): its claim leaves, with the grants of R54; the entry is queued when a pending hold is granted and becomes HELD
(R60). The expiry of a wait limit (R56, R57): a claim that still waits leaves in the same way, and its port's
transaction ends by Table 3-7; one granted or removed meanwhile stays as it is. Which of the release after a store and
the events held back comes first is left open (log 5). The bytes of the entry are those of Table 12-6 (R184, R185). -/
def Obligations.StoreIsRecordedWithRoom : Prop :=
  let entry (base : Word) (t : TableNo) (x : TableRecord) : Entry :=
    ⟨[⟨areaAddress base (0x100 + 32 * t.val + 0x10), tableRecordBytes x⟩]⟩
  let stores (m : Part) (base : Word) (p : PortNo) (n : Part) : Prop :=
    let v := (m.port p).service
    let t := tableNo v.table
    let old := (m.port p).oldValue
    let x : TableRecord := { m.table t with
      storeTally := (m.table t).storeTally + 1
      lastStore := ⟨BitVec.ofNat 8 p.val, v.kind, v.tag, v.index, v.count⟩ }
    n.table t = x ∧ (∀ u, u ≠ t → n.table u = m.table u) ∧ n.xq = m.xq ++ [entry base t x] ∧
      n.causes = (if (m.tableEntry t).notify.getLsbD 0 = true then m.causes ||| 2 else m.causes) ∧
      (n.inbox = .leave p :: m.inbox ∨ n.inbox = m.inbox ++ [.leave p]) ∧
      n.port p = (m.reply p ([v.table] ++ halfBytes v.index ++
        if v.kind = 0x15 then halfBytes old ++ halfBytes ((old &&& v.andMask) ||| v.orMask)
        else halfBytes v.count)).port p ∧
      n.waiters = m.waiters ∧ n.slots = m.slots ∧ n.claims = m.claims ∧ n.engine = m.engine
  let leaves (m n : Part) (t : TableNo) (who : Claimant) : Prop :=
    let l := (m.claimList t).filter fun c => c.claimant != who
    grantsByRule (decide ((m.tableEntry t).kind = 1)) l (n.claimList t) ∧
      (∀ u, u ≠ t → n.table u = m.table u ∧ n.claimList u = m.claimList u) ∧
      (∀ q, becomesGranted l (n.claimList t) (.port q) → n.port q = (m.claimGranted q).port q) ∧
      (∀ q, ¬becomesGranted l (n.claimList t) (.port q) → n.port q = m.port q) ∧
      n.inbox = m.inbox ∧ n.waiters = m.waiters ∧ n.causes = m.causes ∧ n.slots = m.slots
  let posts (m : Part) (base : Word) (t : TableNo) (wanted : Byte) (post : Half) (n : Part) : Prop :=
    let l := m.claimList t
    let held : Prop := ∃ c ∈ l, c.claimant = .hold
    let x : TableRecord := { m.table t with seenHold := post }
    let claim (granted : Bool) : Claim := ⟨.hold, .hold, 0, (m.tableEntry t).length.toNat, granted⟩
    n.xq = m.xq ++ [entry base t (n.table t)] ∧
      (wanted ≠ 1 → n.table t = { x with holdState := .free } ∧ (held → leaves m n t .hold)) ∧
      (wanted = 1 ∨ ¬held →
        (∀ u, u ≠ t → n.table u = m.table u ∧ n.claimList u = m.claimList u) ∧ n.ports = m.ports ∧
        n.inbox = m.inbox ∧ n.waiters = m.waiters ∧ n.causes = m.causes ∧ n.slots = m.slots) ∧
      (wanted ≠ 1 → ¬held → n.claimList t = l) ∧
      (wanted = 1 →
        (held → n.claimList t = l ∧ n.table t = x) ∧
        (¬held → l = [] → n.claimList t = [claim true] ∧ n.table t = { x with holdState := .held }) ∧
        (¬held → l ≠ [] → n.claimList t = l ++ [claim false] ∧ n.table t = { x with holdState := .pending }))
  let releases (m : Part) (base : Word) (t : TableNo) (p : PortNo) (n : Part) : Prop :=
    let hold : Prop := becomesGranted ((m.claimList t).filter fun c => c.claimant != .port p) (n.claimList t) .hold
    let x : TableRecord := { m.table t with holdState := .held }
    leaves m n t (.port p) ∧ (hold → n.table t = x ∧ n.xq = m.xq ++ [entry base t x]) ∧
      (¬hold → n.table t = m.table t ∧ n.xq = m.xq)
  let onlyIn (m : Part) (p : PortNo) (t : TableNo) : Prop :=
    (∃ c ∈ m.claimList t, c.claimant = .port p) ∧ ∀ u, u ≠ t → ∀ c ∈ m.claimList u, c.claimant ≠ .port p
  let waitsIn (m : Part) (p : PortNo) : Prop := ∃ t, ∃ c ∈ m.claimList t, c.claimant = .port p ∧ c.granted = false
  (∀ x : TableRecord,
    tableRecordBytes x = [
      (match x.holdState with
        | .free => 0
        | .pending => 1
        | .held => 2),
      0, x.seenHold.extractLsb' 0 8, x.seenHold.extractLsb' 8 8, x.storeTally.extractLsb' 0 8,
      x.storeTally.extractLsb' 8 8, 0, 0, x.lastStore.port, x.lastStore.kind, x.lastStore.tag,
      x.lastStore.index.extractLsb' 0 8, x.lastStore.index.extractLsb' 8 8, x.lastStore.count.extractLsb' 0 8,
      x.lastStore.count.extractLsb' 8 8, 0]) ∧
  (∀ (m : Part) (base : Word) (i : ClaimInput) (rest : List ClaimInput), m.inbox = i :: rest →
    let taken : Part := { m with inbox := rest }
    let queued (n : Part) : Prop := m.queuesOrWaits .claimUnit m.eventNo (m.claimStep base) n
    let free (n : Part) : Prop := ¬m.isWaiting .claimUnit → m.claimStep base = some n
    (∀ p : PortNo, i = .stored p → ∃ n : Part, queued n ∧ stores taken base p n) ∧
    (∀ (t : TableNo) (wanted : Byte) (post : Half), i = .holdPost t wanted post →
      (post = (m.table t).seenHold → free taken) ∧
      (post ≠ (m.table t).seenHold → ∃ n : Part, queued n ∧ posts taken base t wanted post n)) ∧
    (∀ (p : PortNo) (t : TableNo), i = .leave p → onlyIn m p t →
      ∃ n : Part, releases taken base t p n ∧ (n.xq = m.xq → free n) ∧ (n.xq ≠ m.xq → queued n)) ∧
    ∀ p : PortNo, i = .expire p →
      (¬waitsIn m p → free taken) ∧
      ∀ t : TableNo, waitsIn m p → onlyIn m p t →
        ∃ k n : Part, releases taken base t p k ∧ k.jobs = taken.jobs ∧ k.eventNo = taken.eventNo ∧ k.sweep = taken.sweep ∧
          k.timesOut n p ∧ (k.xq = m.xq → free n) ∧
          (k.xq ≠ m.xq → queued n)) ∧
  ∀ (s : State) (since : Nat) (i : ClaimInput) (rest : List ClaimInput), s.window.resetAsserted = false →
    s.part.engine.working = true → s.part.firstInLine .claimUnit since → s.part.inbox = i :: rest →
    let taken : Part := { s.part.tick with
      inbox := rest, waiters := s.part.waiters.filter fun w => w.who != .claimUnit }
    let becomes (n : Part) : Prop := exec .deferredTableRecordEntry s = .next (s.ends n)
    (∀ p : PortNo, i = .stored p → ∃ n : Part, becomes n ∧ stores taken s.window.base p n) ∧
    (∀ (t : TableNo) (wanted : Byte) (post : Half), i = .holdPost t wanted post → post ≠ (s.part.table t).seenHold →
      ∃ n : Part, becomes n ∧ posts taken s.window.base t wanted post n) ∧
    (∀ (p : PortNo) (t : TableNo), i = .leave p → onlyIn s.part p t →
      ∃ n : Part, becomes n ∧ releases taken s.window.base t p n) ∧
    ∀ (p : PortNo) (t : TableNo), i = .expire p → waitsIn s.part p → onlyIn s.part p t →
      ∃ k n : Part, becomes n ∧ releases taken s.window.base t p k ∧ k.jobs = taken.jobs ∧ k.eventNo = taken.eventNo ∧ k.sweep = taken.sweep ∧
          k.timesOut n p

/-- The steps of a sweep (R144, R145): the host mark, then the host word of each slot in ascending order, each read when
the slot manager has taken the post before whole, then the hold host word of each table, each read when the claim unit
has taken the one before; the order record of an ARM is read within its post. Orders lie as Table 12-8 has them. With
room at once, or when DEFERRED_SWEEP_ENTRY gives it to the sweep unit as the producer that has waited longest (R145,
R146, R160, R183; log 10), it queues a report block of 40 bytes, ports in ascending order, then the header entry, which
carries the sweep count raised by 1 and ends the sweep; with sweep-pending set the next sweep starts at the same event,
unless this was the last of STOPPING (R143, R147). The bytes are those of Tables 12-3 and 12-7 (R184 to R186). -/
def Obligations.SweepQueuesReportsThenHeader : Prop :=
  (∀ (m : Part) (base : Word) (bytes : List Byte),
    let w := m.sweep
    let reads (t : Part) (v : Sweep) (offset len : Nat) : Prop :=
      t = { m with sweep := v, sweepAccess := some (.read (areaAddress base offset) len []) }
    let postDone : Prop := m.tree = [] ∧ ∀ j ∈ m.jobs, (∃ p, j.kind = .runEnding p) ∨ ∃ k, j.kind = .expiry k
    let holdDone : Prop := ∀ t wanted post, .holdPost t wanted post ∉ m.inbox
    (w.phase = .mark →
      reads (m.sweepReadDone base bytes) { w with markRead := wordAt bytes 0, phase := .slot 0 } 0x420 4) ∧
    (∀ n : SlotNo,
      (w.phase = .slot n.val → m.sweepReadDone base bytes =
        { m with sweep := { w with word := wordAt bytes 0, phase := .post n.val } }) ∧
      (w.phase = .post n.val →
        (m.tree = [] → m.sweepStep base = some (m.handPost base n.val)) ∧ (m.tree ≠ [] → m.sweepStep base = none)) ∧
      (w.phase = .order n.val → m.sweepReadDone base bytes =
        { m with sweep := { w with orderRead := Order.ofBytes bytes, phase := .check n.val } }) ∧
      (w.phase = .check n.val →
        let t := m.armPost n w.orderRead
        (m.tree = [] → m.sweepStep base = some { t with sweep := { t.sweep with phase := .postWait n.val } }) ∧
        (m.tree ≠ [] → m.sweepStep base = none)) ∧
      (w.phase = .postWait n.val →
        (postDone → m.sweepStep base = some (m.afterSlot base n.val)) ∧ (¬postDone → m.sweepStep base = none)) ∧
      (n.val < 15 → reads (m.afterSlot base n.val) { w with phase := .slot (n.val + 1) } (0x420 + 64 * (n.val + 1)) 4) ∧
      (n.val = 15 → reads (m.afterSlot base n.val) { w with phase := .hold 0 } 0x10C 4)) ∧
    ∀ t : TableNo,
      (w.phase = .hold t.val → m.sweepReadDone base bytes =
        { m with
          sweep := { w with phase := .holdWait t.val }
          inbox := m.inbox ++ [.holdPost t (byteAt bytes 0) (halfAt bytes 2)] }) ∧
      (w.phase = .holdWait t.val →
        (holdDone → m.sweepStep base = some (m.afterHold base t.val)) ∧ (¬holdDone → m.sweepStep base = none)) ∧
      (t.val < 7 → reads (m.afterHold base t.val) { w with phase := .hold (t.val + 1) } (0x10C + 32 * (t.val + 1)) 4)) ∧
  (let block (m : Part) (base : Word) (p : PortNo) : Part := { m with
      xq := m.xq ++ [⟨[⟨areaAddress base (0x200 + 64 * p.val), reportBytes (m.port p).tallies (m.port p).fault⟩]⟩]
      sweep := { m.sweep with phase := if p.val < 3 then .report (p.val + 1) else .header } }
    let header (m : Part) (base : Word) (t : Part) : Prop :=
      let inFlight : Prop :=
        ∃ p, (m.port p).run.work ≠ none ∨ (m.port p).activity.serves = true ∨ (m.port p).tx = some .grant
      let last : Prop := m.engine = .stopping ∧ ¬inFlight
      let ended : Part := { m with
        xq := m.xq ++ [⟨[⟨areaAddress base 0x004,
          headerBytes (m.sweep.count + 1) m.engine m.sweep.presence m.sweep.overruns⟩]⟩]
        sweep := { m.sweep with count := m.sweep.count + 1, phase := .idle, pending := false } }
      (m.sweep.pending = false ∨ last → t = ended) ∧
      (m.sweep.pending = true → ¬last → t = { ended with
        sweep := { ended.sweep with phase := .mark, timer := true }
        sweepAccess := some (.read (areaAddress base 0) 4 []) })
    (∀ (m : Part) (base : Word),
      (∀ p : PortNo, m.sweep.phase = .report p.val →
        m.queuesOrWaits .sweepUnit m.eventNo (m.sweepStep base) (block m base p)) ∧
      (m.sweep.phase = .header →
        ∃ t, m.queuesOrWaits .sweepUnit m.eventNo (m.sweepStep base) t ∧ header m base t)) ∧
    ∀ (s : State) (since : Nat), s.window.resetAsserted = false → s.part.engine.working = true →
      s.part.firstInLine .sweepUnit since →
      let m : Part := { s.part.tick with waiters := s.part.waiters.filter fun w => w.who != .sweepUnit }
      (∀ p : PortNo, s.part.sweep.phase = .report p.val →
        exec .deferredSweepEntry s = .next (s.ends (block m s.window.base p))) ∧
      (s.part.sweep.phase = .header →
        ∃ t, exec .deferredSweepEntry s = .next (s.ends t) ∧ header m s.window.base t)) ∧
  ∀ (bytes : List Byte) (u : Tallies) (f : FaultRecord) (count overruns : Word) (e : EngineState) (pr : Presence),
    let half (h : Half) : List Byte := [h.extractLsb' 0 8, h.extractLsb' 8 8]
    let word (v : Word) : List Byte := [v.extractLsb' 0 8, v.extractLsb' 8 8, v.extractLsb' 16 8, v.extractLsb' 24 8]
    reportBytes u f = half u.framesAccepted ++ half u.droppedCheck ++ half u.droppedFormat ++ half u.droppedGap ++
      half u.droppedBusy ++ half u.foreign ++ half u.replyTimeouts ++ half u.refusalsSent ++ half u.refusalsReceived ++
      half u.replays ++ half u.bidsLost ++ half u.droppedUnbid ++ [
        (match f.kind with
          | .none => 0
          | .noReply => 1
          | .garbled => 2
          | .refusalSent => 3
          | .refusalReceived => 4
          | .claimTimeout => 5
          | .busError => 6),
        f.slot, f.station, f.request, f.tag, f.reason, 0, 0] ++ word f.sweepCount ++ [0, 0, 0, 0] ∧
    headerBytes count e pr overruns = word count ++ ([
      (match e with
        | .halted => 0
        | .loading => 1
        | .running => 2
        | .stopping => 3
        | .stopped => 4
        | .faulted => 5),
      (match pr with
        | .present => 0
        | .absent => 1), 0, 0] : List Byte) ++ word overruns ∧
    Order.ofBytes bytes = {
      port := byteAt bytes 0, kind := byteAt bytes 1, station := byteAt bytes 2, flags := byteAt bytes 3
      localTable := byteAt bytes 4, remoteTable := byteAt bytes 5, retries := byteAt bytes 6, follows := byteAt bytes 7
      localIndex := halfAt bytes 8, remoteIndex := halfAt bytes 10, count := halfAt bytes 12, period := halfAt bytes 14
      andMask := halfAt bytes 16, orMask := halfAt bytes 18 }

/-- The adoption (R3, R58, R172), each entry of which is queued with room at once, or when DEFERRED_ADOPTION_ENTRY gives
room to engine control as the producer that has waited longest (R160; log 10): a slot is set up afresh and its entry
queued; then a table's record; then a port's tallies and fault record; the header entry moves the engine to RUNNING, or
to STOPPING when a STOP is held, with the first sweep and its timer started and the ports in their roles, each with an
empty replay memory and service record, tag counter 0 and the initial run and peer records. CLEAR_TALLIES in STOPPED
(R166 note 1), the same with DEFERRED_CLEAR_TALLIES_ENTRY: the next port's report block is queued, and after the last
the first read of a START taken meanwhile is made. That a slot is set when its entry is queued, and the sweep unit and
the ports with the header entry, is the model's reading (log 29, DEDUCED), as are the words read that a first sweep
starts with (log 24), the gap timer at the adoption (log 36) and the pointer set at the adoption (log 34). -/
def Obligations.EngineControlGoesOnWithRoom : Prop :=
  let slot (m : Part) (base : Word) (n : SlotNo) : Part :=
    let x : Slot := { Slot.reset with seenPost := (m.loader.hostWords.get n).extractLsb' 16 16 }
    { m.setSlot n x with
      xq := m.xq ++ [⟨[⟨areaAddress base (0x400 + 64 * n.val + 0x2C), resultBytes x.result⟩,
        ⟨areaAddress base (0x400 + 64 * n.val + 0x24), partWordBytes x⟩]⟩]
      loader := { m.loader with phase := .adopting (n.val + 1) } }
  let table (m : Part) (base : Word) (u : TableNo) : Part :=
    let x : TableRecord := { TableRecord.reset with seenHold := (m.loader.holdWords.get u).extractLsb' 16 16 }
    { m.setTable u x with
      xq := m.xq ++ [⟨[⟨areaAddress base (0x100 + 32 * u.val + 0x10), tableRecordBytes x⟩]⟩]
      loader := { m.loader with phase := .adopting (17 + u.val) } }
  let port (m : Part) (base : Word) (p : PortNo) : Part :=
    { m.setPort p { m.port p with tallies := Tallies.zero, fault := FaultRecord.empty } with
      xq := m.xq ++ [⟨[⟨areaAddress base (0x200 + 64 * p.val), reportBytes Tallies.zero FaultRecord.empty⟩]⟩]
      loader := { m.loader with phase := .adopting (25 + p.val) } }
  let header (m : Part) (base : Word) (t : Part) : Prop :=
    t.engine = (if m.loader.stopHeld = true then .stopping else .running) ∧ t.loader = Loader.reset ∧
      t.xq = m.xq ++ [⟨[⟨areaAddress base 0x004, headerBytes 0 .running .present 0⟩]⟩] ∧
      t.sweep = { Sweep.reset with phase := .mark, timer := true } ∧
      t.sweepAccess = some (.read (areaAddress base 0) 4 []) ∧ t.pointer = .sweep ∧
      (∀ p, t.queue p = [] ∧
        (t.port p).replay = none ∧ (t.port p).tagCounter = 0 ∧ (t.port p).peer = ⟨0, .none, .none, 0⟩ ∧
        (t.port p).run = ⟨none, 0, 0, 1, none, zeroReply, false, none⟩ ∧
        (t.port p).service = ⟨0, 0, 0, 0, false, 0, 0, 0, 0, 0, .none⟩ ∧
        ((m.portSetup p).role ≠ 0 → t.port p = { Port.reset with
          activity := .idle, silence := true
          receiver := { state := .hunt, buffer := [], bodyLength := none, check := 0xFFFF } }) ∧
        ((m.portSetup p).role = 0 → t.port p = { Port.reset with activity := .offline })) ∧
      ∀ u, t.claimList u = []
  let clears (m : Part) (base : Word) (p : PortNo) (rest : List PortNo) (t : Part) : Prop :=
    let queued : Part := { m with
      clearPending := rest
      xq := m.xq ++ [⟨[⟨areaAddress base (0x200 + 64 * p.val), reportBytes (m.port p).tallies (m.port p).fault⟩]⟩] }
    (rest ≠ [] ∨ m.loader.phase ≠ .clearing → t = queued) ∧
    (rest = [] → m.loader.phase = .clearing → t = { queued with
      loader := { m.loader with phase := .setupRead 0 }
      sweepAccess := some (.read (areaAddress base 0x040) 32 []) })
  (∀ (m : Part) (base : Word),
    let adopts (t : Part) : Prop := m.queuesOrWaits .engineControl m.eventNo (m.adoptStep base) t
    (∀ n : SlotNo, m.loader.phase = .adopting n.val → adopts (slot m base n)) ∧
    (∀ u : TableNo, m.loader.phase = .adopting (16 + u.val) → adopts (table m base u)) ∧
    (∀ p : PortNo, m.loader.phase = .adopting (24 + p.val) → adopts (port m base p)) ∧
    (m.loader.phase = .adopting 28 → ∃ t, adopts t ∧ header m base t) ∧
    ∀ (p : PortNo) (rest : List PortNo), m.clearPending = p :: rest →
      ∃ t, m.queuesOrWaits .engineControl m.eventNo (m.clearStep base) t ∧ clears m base p rest t) ∧
  ∀ (s : State) (since : Nat), s.window.resetAsserted = false → s.part.firstInLine .engineControl since →
    let base := s.window.base
    let m : Part := { s.part.tick with waiters := s.part.waiters.filter fun w => w.who != .engineControl }
    let adopts (t : Part) : Prop := exec .deferredAdoptionEntry s = .next (s.ends t)
    (∀ n : SlotNo, s.part.loader.phase = .adopting n.val → adopts (slot m base n)) ∧
    (∀ u : TableNo, s.part.loader.phase = .adopting (16 + u.val) → adopts (table m base u)) ∧
    (∀ p : PortNo, s.part.loader.phase = .adopting (24 + p.val) → adopts (port m base p)) ∧
    (s.part.loader.phase = .adopting 28 → ∃ t, adopts t ∧ header m base t) ∧
    ∀ (p : PortNo) (rest : List PortNo), s.part.clearPending = p :: rest →
      ∃ t, exec .deferredClearTalliesEntry s = .next (s.ends t) ∧ clears m base p rest t

/-- The stop sequence (R174, R175): in STOPPING it begins when no port has work in flight and no sweep is in progress,
and goes through the tables, the slots and the header in order, passing a table without a hold and a slot that is not
part-owned without an entry. Its entries (R25, R62, R175), each queued with room at once, or when
DEFERRED_STOP_SEQUENCE_ENTRY gives room to engine control as the producer that has waited longest (R160; log 10): a hold
is removed and the record queued, showing FREE, with the grants that its leaving makes; a part-owned slot completes
STOPPED, and the header entry moves the engine to STOPPED, with the STOPPED cause set, the sweep timer stopped and every
port OFFLINE. It goes on when the claim unit and the slot manager have taken what reached them (log 11); replay memories
are kept as they are (log 35). -/
def Obligations.StopSequenceGoesOnWithRoom : Prop :=
  let idle (m : Part) : Prop := m.inbox = [] ∧ m.tree = [] ∧ m.jobs = []
  let held (m : Part) (t : TableNo) : Prop := ∃ c ∈ m.claimList t, c.claimant = .hold
  let hold (m : Part) (base : Word) (t : TableNo) (n : Part) : Prop :=
    let x : TableRecord := { m.table t with holdState := .free }
    let l := (m.claimList t).filter fun c => c.claimant != .hold
    n.stopSequence = some (.holds (t.val + 1)) ∧ n.table t = x ∧
      n.xq = m.xq ++ [⟨[⟨areaAddress base (0x100 + 32 * t.val + 0x10), tableRecordBytes x⟩]⟩] ∧
      grantsByRule (decide ((m.tableEntry t).kind = 1)) l (n.claimList t) ∧
      (∀ u, u ≠ t → n.table u = m.table u ∧ n.claimList u = m.claimList u) ∧
      (∀ q, (becomesGranted l (n.claimList t) (.port q) → n.port q = (m.claimGranted q).port q) ∧
        (¬becomesGranted l (n.claimList t) (.port q) → n.port q = m.port q)) ∧
      n.waiters = m.waiters ∧ n.slots = m.slots ∧ n.causes = m.causes ∧ n.engine = m.engine
  let slot (m : Part) (base : Word) (n : SlotNo) : Part :=
    { m.complete base n ⟨0x17, 0, 0, 0, zeroReply, .none⟩ with stopSequence := some (.slots (n.val + 1)) }
  let header (m : Part) (base : Word) (n : Part) : Prop :=
    n.engine = .stopped ∧
      n.xq = m.xq ++ [⟨[⟨areaAddress base 0x004,
        headerBytes m.sweep.count .stopped m.sweep.presence m.sweep.overruns⟩]⟩] ∧
      n.causes = m.causes ||| 8 ∧ n.sweep.timer = false ∧ n.sweep.pending = false ∧ n.sweep.count = m.sweep.count ∧
      n.sweep.presence = m.sweep.presence ∧ n.slots = m.slots ∧ n.tables = m.tables ∧
      ∀ p, (n.port p).activity = .offline ∧ (n.port p).receiver.state = .inactive ∧ (n.port p).drven = false ∧
        (n.port p).tallies = (m.port p).tallies ∧ (n.port p).fault = (m.port p).fault ∧
        (n.port p).replay = (m.port p).replay
  (∀ (m : Part) (base : Word), m.engine = .stopping →
    let inFlight : Prop :=
      ∃ p, (m.port p).run.work ≠ none ∨ (m.port p).activity.serves = true ∨ (m.port p).tx = some .grant
    let passes (stage : StopStage) : Prop := m.stopStep base = some { m with stopSequence := some stage }
    let queued (n : Part) : Prop := m.queuesOrWaits .engineControl m.eventNo (m.stopStep base) n
    (m.stopSequence = none →
      (¬inFlight → m.sweep.phase = .idle → passes (.holds 0)) ∧
      (inFlight ∨ m.sweep.phase ≠ .idle → m.stopStep base = none)) ∧
    (∀ t : TableNo, m.stopSequence = some (.holds t.val) →
      (¬held m t → passes (.holds (t.val + 1))) ∧ (held m t → ¬idle m → m.stopStep base = none) ∧
      (held m t → idle m → ∃ n, queued n ∧ hold m base t n)) ∧
    (m.stopSequence = some (.holds 8) → passes (.slots 0)) ∧
    (∀ n : SlotNo, m.stopSequence = some (.slots n.val) →
      ((m.slot n).state.partOwned = false → passes (.slots (n.val + 1))) ∧
      ((m.slot n).state.partOwned = true → ¬idle m → m.stopStep base = none) ∧
      ((m.slot n).state.partOwned = true → idle m → queued (slot m base n))) ∧
    (m.stopSequence = some (.slots 16) → passes .header) ∧
    (m.stopSequence = some .header →
      (¬idle m → m.stopStep base = none) ∧ (idle m → ∃ n, queued n ∧ header m base n))) ∧
  ∀ (s : State) (since : Nat), s.window.resetAsserted = false → s.part.engine = .stopping →
    s.part.firstInLine .engineControl since → idle s.part →
    let base := s.window.base
    let m : Part := { s.part.tick with waiters := s.part.waiters.filter fun w => w.who != .engineControl }
    let becomes (n : Part) : Prop := exec .deferredStopSequenceEntry s = .next (s.ends n)
    (∀ t : TableNo, s.part.stopSequence = some (.holds t.val) → held s.part t → ∃ n, becomes n ∧ hold m base t n) ∧
    (∀ n : SlotNo, s.part.stopSequence = some (.slots n.val) → (s.part.slot n).state.partOwned = true →
      becomes (slot m base n)) ∧
    (s.part.stopSequence = some .header → ∃ n, becomes n ∧ header m base n)

/-! ### Laws that every step keeps -/

/-- Outside RUNNING and STOPPING no dispatch queue holds an entry, no claim list holds a claim, and DRVEN is
deasserted on every port (R175), with every receiver machine inactive and empty (R73). -/
def Obligations.QuietOutsideRunningAndStopping : Prop :=
  ∀ s t : State, s.part.quiet → step s = .next t → t.part.quiet

/-- No two granted claims in one claim list conflict (R54). -/
def Obligations.GrantedClaimsNeverConflict : Prop :=
  ∀ s t : State, s.part.quiet → s.part.grantsAgree → step s = .next t → t.part.grantsAgree

/-- The exchange write queue never holds more than 24 entries (R158). -/
def Obligations.ExchangeQueueNeverOverflows : Prop :=
  ∀ s t : State, s.part.queueBounded → step s = .next t → t.part.queueBounded

/-- While a port transmits, its receiver machine is held in HUNT (R72). -/
def Obligations.ReceiverHeldWhileTransmitting : Prop :=
  ∀ s t : State, s.part.heldInHunt → step s = .next t → t.part.heldInHunt

/-- The fault code is NONE exactly outside FAULTED (R167, R176). Sweep-pending is clear whenever no sweep is in
progress (R143), and ABSENT is held only with a silence limit that the silence count has reached (R148, R149). -/
def Obligations.FaultAndPresenceLaws : Prop :=
  (∀ s t : State, s.part.faultCodeAgrees → step s = .next t → t.part.faultCodeAgrees) ∧
  ∀ s t : State, s.part.pendingLaw → s.part.presenceLaw → step s = .next t → t.part.pendingLaw ∧ t.part.presenceLaw

/-- BASE stays aligned to 256 bytes (R165). The model's record of controller memory keeps its canonical form, which is
the model's representation (log 2, DESIGN CHOICE) and no rule of the data sheet. -/
def Obligations.BaseAlignedAndMemoryCanonical : Prop :=
  ∀ s t : State, s.baseAligned → Memory.wf s.memory = true → step s = .next t →
    t.baseAligned ∧ Memory.wf t.memory = true

/-- The laws hold at State.reset. -/
def Obligations.LawsHoldAtReset : Prop :=
  State.reset.part.quiet ∧ State.reset.part.grantsAgree ∧ State.reset.part.queueBounded ∧
    State.reset.part.heldInHunt ∧ State.reset.part.faultCodeAgrees ∧ State.reset.part.pendingLaw ∧
    State.reset.part.presenceLaw ∧ State.reset.baseAligned ∧ Memory.wf State.reset.memory = true
end

