-- ==== Sys2Proof/Laws/State.lean ====
section
/-! SUPPORT. What each named update leaves and what it writes, field by field: one theorem for each update, whose parts
are rewrite rules, so that no proof unfolds a record update. -/

namespace Sys2Proof.Machine

@[simp] theorem Part.setPort_fields (m : Part) (p : PortNo) (x : Port) :
    (m.setPort p x).engine = m.engine ∧ (m.setPort p x).setupError = m.setupError ∧
    (m.setPort p x).faultCode = m.faultCode ∧ (m.setPort p x).faultAddress = m.faultAddress ∧
    (m.setPort p x).causes = m.causes ∧ (m.setPort p x).setup = m.setup ∧ (m.setPort p x).loader = m.loader ∧
    (m.setPort p x).stopSequence = m.stopSequence ∧ (m.setPort p x).clearPending = m.clearPending ∧
    (m.setPort p x).slots = m.slots ∧ (m.setPort p x).queues = m.queues ∧ (m.setPort p x).tree = m.tree ∧
    (m.setPort p x).jobs = m.jobs ∧ (m.setPort p x).tables = m.tables ∧ (m.setPort p x).claims = m.claims ∧
    (m.setPort p x).inbox = m.inbox ∧ (m.setPort p x).ports = m.ports.set p x ∧ (m.setPort p x).sweep = m.sweep ∧
    (m.setPort p x).xq = m.xq ∧ (m.setPort p x).waiters = m.waiters ∧ (m.setPort p x).sweepAccess = m.sweepAccess ∧
    (m.setPort p x).bus = m.bus ∧ (m.setPort p x).pointer = m.pointer ∧ (m.setPort p x).eventNo = m.eventNo :=
  ⟨rfl, rfl, rfl, rfl, rfl, rfl, rfl, rfl, rfl, rfl, rfl, rfl, rfl, rfl, rfl, rfl, rfl, rfl, rfl, rfl, rfl, rfl, rfl, rfl⟩

@[simp] theorem Part.onPort_fields (m : Part) (p : PortNo) (f : Port → Port) :
    (m.onPort p f).engine = m.engine ∧ (m.onPort p f).setupError = m.setupError ∧
    (m.onPort p f).faultCode = m.faultCode ∧ (m.onPort p f).faultAddress = m.faultAddress ∧
    (m.onPort p f).causes = m.causes ∧ (m.onPort p f).setup = m.setup ∧ (m.onPort p f).loader = m.loader ∧
    (m.onPort p f).stopSequence = m.stopSequence ∧ (m.onPort p f).clearPending = m.clearPending ∧
    (m.onPort p f).slots = m.slots ∧ (m.onPort p f).queues = m.queues ∧ (m.onPort p f).tree = m.tree ∧
    (m.onPort p f).jobs = m.jobs ∧ (m.onPort p f).tables = m.tables ∧ (m.onPort p f).claims = m.claims ∧
    (m.onPort p f).inbox = m.inbox ∧ (m.onPort p f).ports = m.ports.set p (f (m.port p)) ∧
    (m.onPort p f).sweep = m.sweep ∧ (m.onPort p f).xq = m.xq ∧ (m.onPort p f).waiters = m.waiters ∧
    (m.onPort p f).sweepAccess = m.sweepAccess ∧ (m.onPort p f).bus = m.bus ∧ (m.onPort p f).pointer = m.pointer ∧
    (m.onPort p f).eventNo = m.eventNo :=
  ⟨rfl, rfl, rfl, rfl, rfl, rfl, rfl, rfl, rfl, rfl, rfl, rfl, rfl, rfl, rfl, rfl, rfl, rfl, rfl, rfl, rfl, rfl, rfl, rfl⟩

@[simp] theorem Part.onPorts_fields (m : Part) (f : Port → Port) :
    (m.onPorts f).engine = m.engine ∧ (m.onPorts f).setupError = m.setupError ∧
    (m.onPorts f).faultCode = m.faultCode ∧ (m.onPorts f).faultAddress = m.faultAddress ∧
    (m.onPorts f).causes = m.causes ∧ (m.onPorts f).setup = m.setup ∧ (m.onPorts f).loader = m.loader ∧
    (m.onPorts f).stopSequence = m.stopSequence ∧ (m.onPorts f).clearPending = m.clearPending ∧
    (m.onPorts f).slots = m.slots ∧ (m.onPorts f).queues = m.queues ∧ (m.onPorts f).tree = m.tree ∧
    (m.onPorts f).jobs = m.jobs ∧ (m.onPorts f).tables = m.tables ∧ (m.onPorts f).claims = m.claims ∧
    (m.onPorts f).inbox = m.inbox ∧ (m.onPorts f).ports = m.ports.map f ∧ (m.onPorts f).sweep = m.sweep ∧
    (m.onPorts f).xq = m.xq ∧ (m.onPorts f).waiters = m.waiters ∧ (m.onPorts f).sweepAccess = m.sweepAccess ∧
    (m.onPorts f).bus = m.bus ∧ (m.onPorts f).pointer = m.pointer ∧ (m.onPorts f).eventNo = m.eventNo :=
  ⟨rfl, rfl, rfl, rfl, rfl, rfl, rfl, rfl, rfl, rfl, rfl, rfl, rfl, rfl, rfl, rfl, rfl, rfl, rfl, rfl, rfl, rfl, rfl, rfl⟩

@[simp] theorem Part.raise_fields (m : Part) (p : PortNo) (t : Tally) :
    (m.raise p t).engine = m.engine ∧ (m.raise p t).setupError = m.setupError ∧
    (m.raise p t).faultCode = m.faultCode ∧ (m.raise p t).faultAddress = m.faultAddress ∧
    (m.raise p t).causes = m.causes ∧ (m.raise p t).setup = m.setup ∧ (m.raise p t).loader = m.loader ∧
    (m.raise p t).stopSequence = m.stopSequence ∧ (m.raise p t).clearPending = m.clearPending ∧
    (m.raise p t).slots = m.slots ∧ (m.raise p t).queues = m.queues ∧ (m.raise p t).tree = m.tree ∧
    (m.raise p t).jobs = m.jobs ∧ (m.raise p t).tables = m.tables ∧ (m.raise p t).claims = m.claims ∧
    (m.raise p t).inbox = m.inbox ∧ (m.raise p t).ports = m.ports.set p ((m.port p).raise t) ∧
    (m.raise p t).sweep = m.sweep ∧ (m.raise p t).xq = m.xq ∧ (m.raise p t).waiters = m.waiters ∧
    (m.raise p t).sweepAccess = m.sweepAccess ∧ (m.raise p t).bus = m.bus ∧ (m.raise p t).pointer = m.pointer ∧
    (m.raise p t).eventNo = m.eventNo :=
  ⟨rfl, rfl, rfl, rfl, rfl, rfl, rfl, rfl, rfl, rfl, rfl, rfl, rfl, rfl, rfl, rfl, rfl, rfl, rfl, rfl, rfl, rfl, rfl, rfl⟩

@[simp] theorem Part.setSlot_fields (m : Part) (n : SlotNo) (x : Slot) :
    (m.setSlot n x).engine = m.engine ∧ (m.setSlot n x).setupError = m.setupError ∧
    (m.setSlot n x).faultCode = m.faultCode ∧ (m.setSlot n x).faultAddress = m.faultAddress ∧
    (m.setSlot n x).causes = m.causes ∧ (m.setSlot n x).setup = m.setup ∧ (m.setSlot n x).loader = m.loader ∧
    (m.setSlot n x).stopSequence = m.stopSequence ∧ (m.setSlot n x).clearPending = m.clearPending ∧
    (m.setSlot n x).slots = m.slots.set n x ∧ (m.setSlot n x).queues = m.queues ∧ (m.setSlot n x).tree = m.tree ∧
    (m.setSlot n x).jobs = m.jobs ∧ (m.setSlot n x).tables = m.tables ∧ (m.setSlot n x).claims = m.claims ∧
    (m.setSlot n x).inbox = m.inbox ∧ (m.setSlot n x).ports = m.ports ∧ (m.setSlot n x).sweep = m.sweep ∧
    (m.setSlot n x).xq = m.xq ∧ (m.setSlot n x).waiters = m.waiters ∧ (m.setSlot n x).sweepAccess = m.sweepAccess ∧
    (m.setSlot n x).bus = m.bus ∧ (m.setSlot n x).pointer = m.pointer ∧ (m.setSlot n x).eventNo = m.eventNo :=
  ⟨rfl, rfl, rfl, rfl, rfl, rfl, rfl, rfl, rfl, rfl, rfl, rfl, rfl, rfl, rfl, rfl, rfl, rfl, rfl, rfl, rfl, rfl, rfl, rfl⟩

@[simp] theorem Part.onSlot_fields (m : Part) (n : SlotNo) (f : Slot → Slot) :
    (m.onSlot n f).engine = m.engine ∧ (m.onSlot n f).setupError = m.setupError ∧
    (m.onSlot n f).faultCode = m.faultCode ∧ (m.onSlot n f).faultAddress = m.faultAddress ∧
    (m.onSlot n f).causes = m.causes ∧ (m.onSlot n f).setup = m.setup ∧ (m.onSlot n f).loader = m.loader ∧
    (m.onSlot n f).stopSequence = m.stopSequence ∧ (m.onSlot n f).clearPending = m.clearPending ∧
    (m.onSlot n f).slots = m.slots.set n (f (m.slot n)) ∧ (m.onSlot n f).queues = m.queues ∧
    (m.onSlot n f).tree = m.tree ∧ (m.onSlot n f).jobs = m.jobs ∧ (m.onSlot n f).tables = m.tables ∧
    (m.onSlot n f).claims = m.claims ∧ (m.onSlot n f).inbox = m.inbox ∧ (m.onSlot n f).ports = m.ports ∧
    (m.onSlot n f).sweep = m.sweep ∧ (m.onSlot n f).xq = m.xq ∧ (m.onSlot n f).waiters = m.waiters ∧
    (m.onSlot n f).sweepAccess = m.sweepAccess ∧ (m.onSlot n f).bus = m.bus ∧ (m.onSlot n f).pointer = m.pointer ∧
    (m.onSlot n f).eventNo = m.eventNo :=
  ⟨rfl, rfl, rfl, rfl, rfl, rfl, rfl, rfl, rfl, rfl, rfl, rfl, rfl, rfl, rfl, rfl, rfl, rfl, rfl, rfl, rfl, rfl, rfl, rfl⟩

@[simp] theorem Part.setQueue_fields (m : Part) (p : PortNo) (q : List SlotNo) :
    (m.setQueue p q).engine = m.engine ∧ (m.setQueue p q).setupError = m.setupError ∧
    (m.setQueue p q).faultCode = m.faultCode ∧ (m.setQueue p q).faultAddress = m.faultAddress ∧
    (m.setQueue p q).causes = m.causes ∧ (m.setQueue p q).setup = m.setup ∧ (m.setQueue p q).loader = m.loader ∧
    (m.setQueue p q).stopSequence = m.stopSequence ∧ (m.setQueue p q).clearPending = m.clearPending ∧
    (m.setQueue p q).slots = m.slots ∧ (m.setQueue p q).queues = m.queues.set p q ∧ (m.setQueue p q).tree = m.tree ∧
    (m.setQueue p q).jobs = m.jobs ∧ (m.setQueue p q).tables = m.tables ∧ (m.setQueue p q).claims = m.claims ∧
    (m.setQueue p q).inbox = m.inbox ∧ (m.setQueue p q).ports = m.ports ∧ (m.setQueue p q).sweep = m.sweep ∧
    (m.setQueue p q).xq = m.xq ∧ (m.setQueue p q).waiters = m.waiters ∧ (m.setQueue p q).sweepAccess = m.sweepAccess ∧
    (m.setQueue p q).bus = m.bus ∧ (m.setQueue p q).pointer = m.pointer ∧ (m.setQueue p q).eventNo = m.eventNo :=
  ⟨rfl, rfl, rfl, rfl, rfl, rfl, rfl, rfl, rfl, rfl, rfl, rfl, rfl, rfl, rfl, rfl, rfl, rfl, rfl, rfl, rfl, rfl, rfl, rfl⟩

@[simp] theorem Part.setTable_fields (m : Part) (t : TableNo) (x : TableRecord) :
    (m.setTable t x).engine = m.engine ∧ (m.setTable t x).setupError = m.setupError ∧
    (m.setTable t x).faultCode = m.faultCode ∧ (m.setTable t x).faultAddress = m.faultAddress ∧
    (m.setTable t x).causes = m.causes ∧ (m.setTable t x).setup = m.setup ∧ (m.setTable t x).loader = m.loader ∧
    (m.setTable t x).stopSequence = m.stopSequence ∧ (m.setTable t x).clearPending = m.clearPending ∧
    (m.setTable t x).slots = m.slots ∧ (m.setTable t x).queues = m.queues ∧ (m.setTable t x).tree = m.tree ∧
    (m.setTable t x).jobs = m.jobs ∧ (m.setTable t x).tables = m.tables.set t x ∧ (m.setTable t x).claims = m.claims ∧
    (m.setTable t x).inbox = m.inbox ∧ (m.setTable t x).ports = m.ports ∧ (m.setTable t x).sweep = m.sweep ∧
    (m.setTable t x).xq = m.xq ∧ (m.setTable t x).waiters = m.waiters ∧ (m.setTable t x).sweepAccess = m.sweepAccess ∧
    (m.setTable t x).bus = m.bus ∧ (m.setTable t x).pointer = m.pointer ∧ (m.setTable t x).eventNo = m.eventNo :=
  ⟨rfl, rfl, rfl, rfl, rfl, rfl, rfl, rfl, rfl, rfl, rfl, rfl, rfl, rfl, rfl, rfl, rfl, rfl, rfl, rfl, rfl, rfl, rfl, rfl⟩

@[simp] theorem Part.setClaimList_fields (m : Part) (t : TableNo) (l : List Claim) :
    (m.setClaimList t l).engine = m.engine ∧ (m.setClaimList t l).setupError = m.setupError ∧
    (m.setClaimList t l).faultCode = m.faultCode ∧ (m.setClaimList t l).faultAddress = m.faultAddress ∧
    (m.setClaimList t l).causes = m.causes ∧ (m.setClaimList t l).setup = m.setup ∧
    (m.setClaimList t l).loader = m.loader ∧ (m.setClaimList t l).stopSequence = m.stopSequence ∧
    (m.setClaimList t l).clearPending = m.clearPending ∧ (m.setClaimList t l).slots = m.slots ∧
    (m.setClaimList t l).queues = m.queues ∧ (m.setClaimList t l).tree = m.tree ∧ (m.setClaimList t l).jobs = m.jobs ∧
    (m.setClaimList t l).tables = m.tables ∧ (m.setClaimList t l).claims = m.claims.set t l ∧
    (m.setClaimList t l).inbox = m.inbox ∧ (m.setClaimList t l).ports = m.ports ∧
    (m.setClaimList t l).sweep = m.sweep ∧ (m.setClaimList t l).xq = m.xq ∧ (m.setClaimList t l).waiters = m.waiters ∧
    (m.setClaimList t l).sweepAccess = m.sweepAccess ∧ (m.setClaimList t l).bus = m.bus ∧
    (m.setClaimList t l).pointer = m.pointer ∧ (m.setClaimList t l).eventNo = m.eventNo :=
  ⟨rfl, rfl, rfl, rfl, rfl, rfl, rfl, rfl, rfl, rfl, rfl, rfl, rfl, rfl, rfl, rfl, rfl, rfl, rfl, rfl, rfl, rfl, rfl, rfl⟩

@[simp] theorem Part.setCause_fields (m : Part) (c : Cause) :
    (m.setCause c).engine = m.engine ∧ (m.setCause c).setupError = m.setupError ∧
    (m.setCause c).faultCode = m.faultCode ∧ (m.setCause c).faultAddress = m.faultAddress ∧
    (m.setCause c).causes = m.causes ||| c.bit ∧ (m.setCause c).setup = m.setup ∧ (m.setCause c).loader = m.loader ∧
    (m.setCause c).stopSequence = m.stopSequence ∧ (m.setCause c).clearPending = m.clearPending ∧
    (m.setCause c).slots = m.slots ∧ (m.setCause c).queues = m.queues ∧ (m.setCause c).tree = m.tree ∧
    (m.setCause c).jobs = m.jobs ∧ (m.setCause c).tables = m.tables ∧ (m.setCause c).claims = m.claims ∧
    (m.setCause c).inbox = m.inbox ∧ (m.setCause c).ports = m.ports ∧ (m.setCause c).sweep = m.sweep ∧
    (m.setCause c).xq = m.xq ∧ (m.setCause c).waiters = m.waiters ∧ (m.setCause c).sweepAccess = m.sweepAccess ∧
    (m.setCause c).bus = m.bus ∧ (m.setCause c).pointer = m.pointer ∧ (m.setCause c).eventNo = m.eventNo :=
  ⟨rfl, rfl, rfl, rfl, rfl, rfl, rfl, rfl, rfl, rfl, rfl, rfl, rfl, rfl, rfl, rfl, rfl, rfl, rfl, rfl, rfl, rfl, rfl, rfl⟩

@[simp] theorem Part.pushEntry_fields (m : Part) (e : Entry) :
    (m.pushEntry e).engine = m.engine ∧ (m.pushEntry e).setupError = m.setupError ∧
    (m.pushEntry e).faultCode = m.faultCode ∧ (m.pushEntry e).faultAddress = m.faultAddress ∧
    (m.pushEntry e).causes = m.causes ∧ (m.pushEntry e).setup = m.setup ∧ (m.pushEntry e).loader = m.loader ∧
    (m.pushEntry e).stopSequence = m.stopSequence ∧ (m.pushEntry e).clearPending = m.clearPending ∧
    (m.pushEntry e).slots = m.slots ∧ (m.pushEntry e).queues = m.queues ∧ (m.pushEntry e).tree = m.tree ∧
    (m.pushEntry e).jobs = m.jobs ∧ (m.pushEntry e).tables = m.tables ∧ (m.pushEntry e).claims = m.claims ∧
    (m.pushEntry e).inbox = m.inbox ∧ (m.pushEntry e).ports = m.ports ∧ (m.pushEntry e).sweep = m.sweep ∧
    (m.pushEntry e).xq = m.xq ++ [e] ∧ (m.pushEntry e).waiters = m.waiters ∧
    (m.pushEntry e).sweepAccess = m.sweepAccess ∧ (m.pushEntry e).bus = m.bus ∧ (m.pushEntry e).pointer = m.pointer ∧
    (m.pushEntry e).eventNo = m.eventNo :=
  ⟨rfl, rfl, rfl, rfl, rfl, rfl, rfl, rfl, rfl, rfl, rfl, rfl, rfl, rfl, rfl, rfl, rfl, rfl, rfl, rfl, rfl, rfl, rfl, rfl⟩

@[simp] theorem Part.endWait_fields (m : Part) (who : Producer) :
    (m.endWait who).engine = m.engine ∧ (m.endWait who).setupError = m.setupError ∧
    (m.endWait who).faultCode = m.faultCode ∧ (m.endWait who).faultAddress = m.faultAddress ∧
    (m.endWait who).causes = m.causes ∧ (m.endWait who).setup = m.setup ∧ (m.endWait who).loader = m.loader ∧
    (m.endWait who).stopSequence = m.stopSequence ∧ (m.endWait who).clearPending = m.clearPending ∧
    (m.endWait who).slots = m.slots ∧ (m.endWait who).queues = m.queues ∧ (m.endWait who).tree = m.tree ∧
    (m.endWait who).jobs = m.jobs ∧ (m.endWait who).tables = m.tables ∧ (m.endWait who).claims = m.claims ∧
    (m.endWait who).inbox = m.inbox ∧ (m.endWait who).ports = m.ports ∧ (m.endWait who).sweep = m.sweep ∧
    (m.endWait who).xq = m.xq ∧ (m.endWait who).waiters = (m.waiters.filter fun w => w.who != who) ∧
    (m.endWait who).sweepAccess = m.sweepAccess ∧ (m.endWait who).bus = m.bus ∧ (m.endWait who).pointer = m.pointer ∧
    (m.endWait who).eventNo = m.eventNo :=
  ⟨rfl, rfl, rfl, rfl, rfl, rfl, rfl, rfl, rfl, rfl, rfl, rfl, rfl, rfl, rfl, rfl, rfl, rfl, rfl, rfl, rfl, rfl, rfl, rfl⟩

@[simp] theorem Part.tellClaimUnit_fields (m : Part) (i : ClaimInput) :
    (m.tellClaimUnit i).engine = m.engine ∧ (m.tellClaimUnit i).setupError = m.setupError ∧
    (m.tellClaimUnit i).faultCode = m.faultCode ∧ (m.tellClaimUnit i).faultAddress = m.faultAddress ∧
    (m.tellClaimUnit i).causes = m.causes ∧ (m.tellClaimUnit i).setup = m.setup ∧
    (m.tellClaimUnit i).loader = m.loader ∧ (m.tellClaimUnit i).stopSequence = m.stopSequence ∧
    (m.tellClaimUnit i).clearPending = m.clearPending ∧ (m.tellClaimUnit i).slots = m.slots ∧
    (m.tellClaimUnit i).queues = m.queues ∧ (m.tellClaimUnit i).tree = m.tree ∧ (m.tellClaimUnit i).jobs = m.jobs ∧
    (m.tellClaimUnit i).tables = m.tables ∧ (m.tellClaimUnit i).claims = m.claims ∧
    (m.tellClaimUnit i).inbox = m.inbox ++ [i] ∧ (m.tellClaimUnit i).ports = m.ports ∧
    (m.tellClaimUnit i).sweep = m.sweep ∧ (m.tellClaimUnit i).xq = m.xq ∧ (m.tellClaimUnit i).waiters = m.waiters ∧
    (m.tellClaimUnit i).sweepAccess = m.sweepAccess ∧ (m.tellClaimUnit i).bus = m.bus ∧
    (m.tellClaimUnit i).pointer = m.pointer ∧ (m.tellClaimUnit i).eventNo = m.eventNo :=
  ⟨rfl, rfl, rfl, rfl, rfl, rfl, rfl, rfl, rfl, rfl, rfl, rfl, rfl, rfl, rfl, rfl, rfl, rfl, rfl, rfl, rfl, rfl, rfl, rfl⟩

@[simp] theorem Part.askClaim_fields (m : Part) (p : PortNo) (t : TableNo) (mode : ClaimMode) (first count : Nat) :
    (m.askClaim p t mode first count).engine = m.engine ∧
    (m.askClaim p t mode first count).setupError = m.setupError ∧
    (m.askClaim p t mode first count).faultCode = m.faultCode ∧
    (m.askClaim p t mode first count).faultAddress = m.faultAddress ∧
    (m.askClaim p t mode first count).causes = m.causes ∧ (m.askClaim p t mode first count).setup = m.setup ∧
    (m.askClaim p t mode first count).loader = m.loader ∧
    (m.askClaim p t mode first count).stopSequence = m.stopSequence ∧
    (m.askClaim p t mode first count).clearPending = m.clearPending ∧
    (m.askClaim p t mode first count).slots = m.slots ∧ (m.askClaim p t mode first count).queues = m.queues ∧
    (m.askClaim p t mode first count).tree = m.tree ∧ (m.askClaim p t mode first count).jobs = m.jobs ∧
    (m.askClaim p t mode first count).tables = m.tables ∧ (m.askClaim p t mode first count).claims = m.claims ∧
    (m.askClaim p t mode first count).inbox = m.inbox ++ [.arrive p t mode first count] ∧
    (m.askClaim p t mode first count).ports = m.ports ∧ (m.askClaim p t mode first count).sweep = m.sweep ∧
    (m.askClaim p t mode first count).xq = m.xq ∧ (m.askClaim p t mode first count).waiters = m.waiters ∧
    (m.askClaim p t mode first count).sweepAccess = m.sweepAccess ∧ (m.askClaim p t mode first count).bus = m.bus ∧
    (m.askClaim p t mode first count).pointer = m.pointer ∧ (m.askClaim p t mode first count).eventNo = m.eventNo :=
  ⟨rfl, rfl, rfl, rfl, rfl, rfl, rfl, rfl, rfl, rfl, rfl, rfl, rfl, rfl, rfl, rfl, rfl, rfl, rfl, rfl, rfl, rfl, rfl, rfl⟩

@[simp] theorem Part.releaseClaim_fields (m : Part) (p : PortNo) :
    (m.releaseClaim p).engine = m.engine ∧ (m.releaseClaim p).setupError = m.setupError ∧
    (m.releaseClaim p).faultCode = m.faultCode ∧ (m.releaseClaim p).faultAddress = m.faultAddress ∧
    (m.releaseClaim p).causes = m.causes ∧ (m.releaseClaim p).setup = m.setup ∧ (m.releaseClaim p).loader = m.loader ∧
    (m.releaseClaim p).stopSequence = m.stopSequence ∧ (m.releaseClaim p).clearPending = m.clearPending ∧
    (m.releaseClaim p).slots = m.slots ∧ (m.releaseClaim p).queues = m.queues ∧ (m.releaseClaim p).tree = m.tree ∧
    (m.releaseClaim p).jobs = m.jobs ∧ (m.releaseClaim p).tables = m.tables ∧ (m.releaseClaim p).claims = m.claims ∧
    (m.releaseClaim p).inbox = m.inbox ++ [.leave p] ∧ (m.releaseClaim p).ports = m.ports ∧
    (m.releaseClaim p).sweep = m.sweep ∧ (m.releaseClaim p).xq = m.xq ∧ (m.releaseClaim p).waiters = m.waiters ∧
    (m.releaseClaim p).sweepAccess = m.sweepAccess ∧ (m.releaseClaim p).bus = m.bus ∧
    (m.releaseClaim p).pointer = m.pointer ∧ (m.releaseClaim p).eventNo = m.eventNo :=
  ⟨rfl, rfl, rfl, rfl, rfl, rfl, rfl, rfl, rfl, rfl, rfl, rfl, rfl, rfl, rfl, rfl, rfl, rfl, rfl, rfl, rfl, rfl, rfl, rfl⟩

@[simp] theorem Part.tellSlotManager_fields (m : Part) (k : JobKind) :
    (m.tellSlotManager k).engine = m.engine ∧ (m.tellSlotManager k).setupError = m.setupError ∧
    (m.tellSlotManager k).faultCode = m.faultCode ∧ (m.tellSlotManager k).faultAddress = m.faultAddress ∧
    (m.tellSlotManager k).causes = m.causes ∧ (m.tellSlotManager k).setup = m.setup ∧
    (m.tellSlotManager k).loader = m.loader ∧ (m.tellSlotManager k).stopSequence = m.stopSequence ∧
    (m.tellSlotManager k).clearPending = m.clearPending ∧ (m.tellSlotManager k).slots = m.slots ∧
    (m.tellSlotManager k).queues = m.queues ∧ (m.tellSlotManager k).tree = m.tree ∧
    (m.tellSlotManager k).jobs = m.jobs ++ [⟨k, m.eventNo⟩] ∧ (m.tellSlotManager k).tables = m.tables ∧
    (m.tellSlotManager k).claims = m.claims ∧ (m.tellSlotManager k).inbox = m.inbox ∧
    (m.tellSlotManager k).ports = m.ports ∧ (m.tellSlotManager k).sweep = m.sweep ∧ (m.tellSlotManager k).xq = m.xq ∧
    (m.tellSlotManager k).waiters = m.waiters ∧ (m.tellSlotManager k).sweepAccess = m.sweepAccess ∧
    (m.tellSlotManager k).bus = m.bus ∧ (m.tellSlotManager k).pointer = m.pointer ∧
    (m.tellSlotManager k).eventNo = m.eventNo :=
  ⟨rfl, rfl, rfl, rfl, rfl, rfl, rfl, rfl, rfl, rfl, rfl, rfl, rfl, rfl, rfl, rfl, rfl, rfl, rfl, rfl, rfl, rfl, rfl, rfl⟩

@[simp] theorem Part.tellPost_fields (m : Part) (k : JobKind) :
    (m.tellPost k).engine = m.engine ∧ (m.tellPost k).setupError = m.setupError ∧
    (m.tellPost k).faultCode = m.faultCode ∧ (m.tellPost k).faultAddress = m.faultAddress ∧
    (m.tellPost k).causes = m.causes ∧ (m.tellPost k).setup = m.setup ∧
    (m.tellPost k).loader = m.loader ∧ (m.tellPost k).stopSequence = m.stopSequence ∧
    (m.tellPost k).clearPending = m.clearPending ∧ (m.tellPost k).slots = m.slots ∧
    (m.tellPost k).queues = m.queues ∧ (m.tellPost k).tree = m.tree ∧
    (m.tellPost k).jobs = ⟨k, m.eventNo⟩ :: m.jobs ∧ (m.tellPost k).tables = m.tables ∧
    (m.tellPost k).claims = m.claims ∧ (m.tellPost k).inbox = m.inbox ∧
    (m.tellPost k).ports = m.ports ∧ (m.tellPost k).sweep = m.sweep ∧ (m.tellPost k).xq = m.xq ∧
    (m.tellPost k).waiters = m.waiters ∧ (m.tellPost k).sweepAccess = m.sweepAccess ∧
    (m.tellPost k).bus = m.bus ∧ (m.tellPost k).pointer = m.pointer ∧
    (m.tellPost k).eventNo = m.eventNo :=
  ⟨rfl, rfl, rfl, rfl, rfl, rfl, rfl, rfl, rfl, rfl, rfl, rfl, rfl, rfl, rfl, rfl, rfl, rfl, rfl, rfl, rfl, rfl, rfl, rfl⟩

@[simp] theorem Part.sweepRead_fields (m : Part) (base : Word) (offset len : Nat) :
    (m.sweepRead base offset len).engine = m.engine ∧ (m.sweepRead base offset len).setupError = m.setupError ∧
    (m.sweepRead base offset len).faultCode = m.faultCode ∧
    (m.sweepRead base offset len).faultAddress = m.faultAddress ∧ (m.sweepRead base offset len).causes = m.causes ∧
    (m.sweepRead base offset len).setup = m.setup ∧ (m.sweepRead base offset len).loader = m.loader ∧
    (m.sweepRead base offset len).stopSequence = m.stopSequence ∧
    (m.sweepRead base offset len).clearPending = m.clearPending ∧ (m.sweepRead base offset len).slots = m.slots ∧
    (m.sweepRead base offset len).queues = m.queues ∧ (m.sweepRead base offset len).tree = m.tree ∧
    (m.sweepRead base offset len).jobs = m.jobs ∧ (m.sweepRead base offset len).tables = m.tables ∧
    (m.sweepRead base offset len).claims = m.claims ∧ (m.sweepRead base offset len).inbox = m.inbox ∧
    (m.sweepRead base offset len).ports = m.ports ∧ (m.sweepRead base offset len).sweep = m.sweep ∧
    (m.sweepRead base offset len).xq = m.xq ∧ (m.sweepRead base offset len).waiters = m.waiters ∧
    (m.sweepRead base offset len).sweepAccess = some (.read (areaAddress base offset) len []) ∧
    (m.sweepRead base offset len).bus = m.bus ∧ (m.sweepRead base offset len).pointer = m.pointer ∧
    (m.sweepRead base offset len).eventNo = m.eventNo :=
  ⟨rfl, rfl, rfl, rfl, rfl, rfl, rfl, rfl, rfl, rfl, rfl, rfl, rfl, rfl, rfl, rfl, rfl, rfl, rfl, rfl, rfl, rfl, rfl, rfl⟩

@[simp] theorem Part.setSweepPhase_fields (m : Part) (ph : SweepPhase) :
    (m.setSweepPhase ph).engine = m.engine ∧ (m.setSweepPhase ph).setupError = m.setupError ∧
    (m.setSweepPhase ph).faultCode = m.faultCode ∧ (m.setSweepPhase ph).faultAddress = m.faultAddress ∧
    (m.setSweepPhase ph).causes = m.causes ∧ (m.setSweepPhase ph).setup = m.setup ∧
    (m.setSweepPhase ph).loader = m.loader ∧ (m.setSweepPhase ph).stopSequence = m.stopSequence ∧
    (m.setSweepPhase ph).clearPending = m.clearPending ∧ (m.setSweepPhase ph).slots = m.slots ∧
    (m.setSweepPhase ph).queues = m.queues ∧ (m.setSweepPhase ph).tree = m.tree ∧ (m.setSweepPhase ph).jobs = m.jobs ∧
    (m.setSweepPhase ph).tables = m.tables ∧ (m.setSweepPhase ph).claims = m.claims ∧
    (m.setSweepPhase ph).inbox = m.inbox ∧ (m.setSweepPhase ph).ports = m.ports ∧
    (m.setSweepPhase ph).sweep = { m.sweep with phase := ph } ∧ (m.setSweepPhase ph).xq = m.xq ∧
    (m.setSweepPhase ph).waiters = m.waiters ∧ (m.setSweepPhase ph).sweepAccess = m.sweepAccess ∧
    (m.setSweepPhase ph).bus = m.bus ∧ (m.setSweepPhase ph).pointer = m.pointer ∧
    (m.setSweepPhase ph).eventNo = m.eventNo :=
  ⟨rfl, rfl, rfl, rfl, rfl, rfl, rfl, rfl, rfl, rfl, rfl, rfl, rfl, rfl, rfl, rfl, rfl, rfl, rfl, rfl, rfl, rfl, rfl, rfl⟩

@[simp] theorem Part.setLoadPhase_fields (m : Part) (ph : LoadPhase) :
    (m.setLoadPhase ph).engine = m.engine ∧ (m.setLoadPhase ph).setupError = m.setupError ∧
    (m.setLoadPhase ph).faultCode = m.faultCode ∧ (m.setLoadPhase ph).faultAddress = m.faultAddress ∧
    (m.setLoadPhase ph).causes = m.causes ∧ (m.setLoadPhase ph).setup = m.setup ∧
    (m.setLoadPhase ph).loader = { m.loader with phase := ph } ∧ (m.setLoadPhase ph).stopSequence = m.stopSequence ∧
    (m.setLoadPhase ph).clearPending = m.clearPending ∧ (m.setLoadPhase ph).slots = m.slots ∧
    (m.setLoadPhase ph).queues = m.queues ∧ (m.setLoadPhase ph).tree = m.tree ∧ (m.setLoadPhase ph).jobs = m.jobs ∧
    (m.setLoadPhase ph).tables = m.tables ∧ (m.setLoadPhase ph).claims = m.claims ∧
    (m.setLoadPhase ph).inbox = m.inbox ∧ (m.setLoadPhase ph).ports = m.ports ∧ (m.setLoadPhase ph).sweep = m.sweep ∧
    (m.setLoadPhase ph).xq = m.xq ∧ (m.setLoadPhase ph).waiters = m.waiters ∧
    (m.setLoadPhase ph).sweepAccess = m.sweepAccess ∧ (m.setLoadPhase ph).bus = m.bus ∧
    (m.setLoadPhase ph).pointer = m.pointer ∧ (m.setLoadPhase ph).eventNo = m.eventNo :=
  ⟨rfl, rfl, rfl, rfl, rfl, rfl, rfl, rfl, rfl, rfl, rfl, rfl, rfl, rfl, rfl, rfl, rfl, rfl, rfl, rfl, rfl, rfl, rfl, rfl⟩

@[simp] theorem Part.tick_fields (m : Part) :
    (m.tick).engine = m.engine ∧ (m.tick).setupError = m.setupError ∧ (m.tick).faultCode = m.faultCode ∧
    (m.tick).faultAddress = m.faultAddress ∧ (m.tick).causes = m.causes ∧ (m.tick).setup = m.setup ∧
    (m.tick).loader = m.loader ∧ (m.tick).stopSequence = m.stopSequence ∧ (m.tick).clearPending = m.clearPending ∧
    (m.tick).slots = m.slots ∧ (m.tick).queues = m.queues ∧ (m.tick).tree = m.tree ∧ (m.tick).jobs = m.jobs ∧
    (m.tick).tables = m.tables ∧ (m.tick).claims = m.claims ∧ (m.tick).inbox = m.inbox ∧ (m.tick).ports = m.ports ∧
    (m.tick).sweep = m.sweep ∧ (m.tick).xq = m.xq ∧ (m.tick).waiters = m.waiters ∧
    (m.tick).sweepAccess = m.sweepAccess ∧ (m.tick).bus = m.bus ∧ (m.tick).pointer = m.pointer ∧
    (m.tick).eventNo = m.eventNo + 1 :=
  ⟨rfl, rfl, rfl, rfl, rfl, rfl, rfl, rfl, rfl, rfl, rfl, rfl, rfl, rfl, rfl, rfl, rfl, rfl, rfl, rfl, rfl, rfl, rfl, rfl⟩

/-! ### What is read through an accessor, where the update does not touch it -/

@[simp] theorem Part.setPort_reads (m : Part) (p : PortNo) (x : Port) :
    (∀ n₀ : SlotNo, (m.setPort p x).slot n₀ = m.slot n₀) ∧ (∀ q₀ : PortNo, (m.setPort p x).queue q₀ = m.queue q₀) ∧
    (∀ t₀ : TableNo, (m.setPort p x).table t₀ = m.table t₀) ∧
    (∀ t₀ : TableNo, (m.setPort p x).claimList t₀ = m.claimList t₀) ∧
    (∀ q₀ : PortNo, (m.setPort p x).portSetup q₀ = m.portSetup q₀) ∧
    (∀ t₀ : TableNo, (m.setPort p x).tableEntry t₀ = m.tableEntry t₀) :=
  ⟨fun _ => rfl, fun _ => rfl, fun _ => rfl, fun _ => rfl, fun _ => rfl, fun _ => rfl⟩

@[simp] theorem Part.onPort_reads (m : Part) (p : PortNo) (f : Port → Port) :
    (∀ n₀ : SlotNo, (m.onPort p f).slot n₀ = m.slot n₀) ∧ (∀ q₀ : PortNo, (m.onPort p f).queue q₀ = m.queue q₀) ∧
    (∀ t₀ : TableNo, (m.onPort p f).table t₀ = m.table t₀) ∧
    (∀ t₀ : TableNo, (m.onPort p f).claimList t₀ = m.claimList t₀) ∧
    (∀ q₀ : PortNo, (m.onPort p f).portSetup q₀ = m.portSetup q₀) ∧
    (∀ t₀ : TableNo, (m.onPort p f).tableEntry t₀ = m.tableEntry t₀) :=
  ⟨fun _ => rfl, fun _ => rfl, fun _ => rfl, fun _ => rfl, fun _ => rfl, fun _ => rfl⟩

@[simp] theorem Part.onPorts_reads (m : Part) (f : Port → Port) :
    (∀ n₀ : SlotNo, (m.onPorts f).slot n₀ = m.slot n₀) ∧ (∀ q₀ : PortNo, (m.onPorts f).queue q₀ = m.queue q₀) ∧
    (∀ t₀ : TableNo, (m.onPorts f).table t₀ = m.table t₀) ∧
    (∀ t₀ : TableNo, (m.onPorts f).claimList t₀ = m.claimList t₀) ∧
    (∀ q₀ : PortNo, (m.onPorts f).portSetup q₀ = m.portSetup q₀) ∧
    (∀ t₀ : TableNo, (m.onPorts f).tableEntry t₀ = m.tableEntry t₀) :=
  ⟨fun _ => rfl, fun _ => rfl, fun _ => rfl, fun _ => rfl, fun _ => rfl, fun _ => rfl⟩

@[simp] theorem Part.raise_reads (m : Part) (p : PortNo) (t : Tally) :
    (∀ n₀ : SlotNo, (m.raise p t).slot n₀ = m.slot n₀) ∧ (∀ q₀ : PortNo, (m.raise p t).queue q₀ = m.queue q₀) ∧
    (∀ t₀ : TableNo, (m.raise p t).table t₀ = m.table t₀) ∧
    (∀ t₀ : TableNo, (m.raise p t).claimList t₀ = m.claimList t₀) ∧
    (∀ q₀ : PortNo, (m.raise p t).portSetup q₀ = m.portSetup q₀) ∧
    (∀ t₀ : TableNo, (m.raise p t).tableEntry t₀ = m.tableEntry t₀) :=
  ⟨fun _ => rfl, fun _ => rfl, fun _ => rfl, fun _ => rfl, fun _ => rfl, fun _ => rfl⟩

@[simp] theorem Part.setSlot_reads (m : Part) (n : SlotNo) (x : Slot) :
    (∀ q₀ : PortNo, (m.setSlot n x).port q₀ = m.port q₀) ∧ (∀ q₀ : PortNo, (m.setSlot n x).queue q₀ = m.queue q₀) ∧
    (∀ t₀ : TableNo, (m.setSlot n x).table t₀ = m.table t₀) ∧
    (∀ t₀ : TableNo, (m.setSlot n x).claimList t₀ = m.claimList t₀) ∧
    (∀ q₀ : PortNo, (m.setSlot n x).portSetup q₀ = m.portSetup q₀) ∧
    (∀ t₀ : TableNo, (m.setSlot n x).tableEntry t₀ = m.tableEntry t₀) :=
  ⟨fun _ => rfl, fun _ => rfl, fun _ => rfl, fun _ => rfl, fun _ => rfl, fun _ => rfl⟩

@[simp] theorem Part.onSlot_reads (m : Part) (n : SlotNo) (f : Slot → Slot) :
    (∀ q₀ : PortNo, (m.onSlot n f).port q₀ = m.port q₀) ∧ (∀ q₀ : PortNo, (m.onSlot n f).queue q₀ = m.queue q₀) ∧
    (∀ t₀ : TableNo, (m.onSlot n f).table t₀ = m.table t₀) ∧
    (∀ t₀ : TableNo, (m.onSlot n f).claimList t₀ = m.claimList t₀) ∧
    (∀ q₀ : PortNo, (m.onSlot n f).portSetup q₀ = m.portSetup q₀) ∧
    (∀ t₀ : TableNo, (m.onSlot n f).tableEntry t₀ = m.tableEntry t₀) :=
  ⟨fun _ => rfl, fun _ => rfl, fun _ => rfl, fun _ => rfl, fun _ => rfl, fun _ => rfl⟩

@[simp] theorem Part.setQueue_reads (m : Part) (p : PortNo) (q : List SlotNo) :
    (∀ q₀ : PortNo, (m.setQueue p q).port q₀ = m.port q₀) ∧ (∀ n₀ : SlotNo, (m.setQueue p q).slot n₀ = m.slot n₀) ∧
    (∀ t₀ : TableNo, (m.setQueue p q).table t₀ = m.table t₀) ∧
    (∀ t₀ : TableNo, (m.setQueue p q).claimList t₀ = m.claimList t₀) ∧
    (∀ q₀ : PortNo, (m.setQueue p q).portSetup q₀ = m.portSetup q₀) ∧
    (∀ t₀ : TableNo, (m.setQueue p q).tableEntry t₀ = m.tableEntry t₀) :=
  ⟨fun _ => rfl, fun _ => rfl, fun _ => rfl, fun _ => rfl, fun _ => rfl, fun _ => rfl⟩

@[simp] theorem Part.setTable_reads (m : Part) (t : TableNo) (x : TableRecord) :
    (∀ q₀ : PortNo, (m.setTable t x).port q₀ = m.port q₀) ∧ (∀ n₀ : SlotNo, (m.setTable t x).slot n₀ = m.slot n₀) ∧
    (∀ q₀ : PortNo, (m.setTable t x).queue q₀ = m.queue q₀) ∧
    (∀ t₀ : TableNo, (m.setTable t x).claimList t₀ = m.claimList t₀) ∧
    (∀ q₀ : PortNo, (m.setTable t x).portSetup q₀ = m.portSetup q₀) ∧
    (∀ t₀ : TableNo, (m.setTable t x).tableEntry t₀ = m.tableEntry t₀) :=
  ⟨fun _ => rfl, fun _ => rfl, fun _ => rfl, fun _ => rfl, fun _ => rfl, fun _ => rfl⟩

@[simp] theorem Part.setClaimList_reads (m : Part) (t : TableNo) (l : List Claim) :
    (∀ q₀ : PortNo, (m.setClaimList t l).port q₀ = m.port q₀) ∧
    (∀ n₀ : SlotNo, (m.setClaimList t l).slot n₀ = m.slot n₀) ∧
    (∀ q₀ : PortNo, (m.setClaimList t l).queue q₀ = m.queue q₀) ∧
    (∀ t₀ : TableNo, (m.setClaimList t l).table t₀ = m.table t₀) ∧
    (∀ q₀ : PortNo, (m.setClaimList t l).portSetup q₀ = m.portSetup q₀) ∧
    (∀ t₀ : TableNo, (m.setClaimList t l).tableEntry t₀ = m.tableEntry t₀) :=
  ⟨fun _ => rfl, fun _ => rfl, fun _ => rfl, fun _ => rfl, fun _ => rfl, fun _ => rfl⟩

@[simp] theorem Part.setCause_reads (m : Part) (c : Cause) :
    (∀ q₀ : PortNo, (m.setCause c).port q₀ = m.port q₀) ∧ (∀ n₀ : SlotNo, (m.setCause c).slot n₀ = m.slot n₀) ∧
    (∀ q₀ : PortNo, (m.setCause c).queue q₀ = m.queue q₀) ∧
    (∀ t₀ : TableNo, (m.setCause c).table t₀ = m.table t₀) ∧
    (∀ t₀ : TableNo, (m.setCause c).claimList t₀ = m.claimList t₀) ∧
    (∀ q₀ : PortNo, (m.setCause c).portSetup q₀ = m.portSetup q₀) ∧
    (∀ t₀ : TableNo, (m.setCause c).tableEntry t₀ = m.tableEntry t₀) :=
  ⟨fun _ => rfl, fun _ => rfl, fun _ => rfl, fun _ => rfl, fun _ => rfl, fun _ => rfl, fun _ => rfl⟩

@[simp] theorem Part.pushEntry_reads (m : Part) (e : Entry) :
    (∀ q₀ : PortNo, (m.pushEntry e).port q₀ = m.port q₀) ∧ (∀ n₀ : SlotNo, (m.pushEntry e).slot n₀ = m.slot n₀) ∧
    (∀ q₀ : PortNo, (m.pushEntry e).queue q₀ = m.queue q₀) ∧
    (∀ t₀ : TableNo, (m.pushEntry e).table t₀ = m.table t₀) ∧
    (∀ t₀ : TableNo, (m.pushEntry e).claimList t₀ = m.claimList t₀) ∧
    (∀ q₀ : PortNo, (m.pushEntry e).portSetup q₀ = m.portSetup q₀) ∧
    (∀ t₀ : TableNo, (m.pushEntry e).tableEntry t₀ = m.tableEntry t₀) :=
  ⟨fun _ => rfl, fun _ => rfl, fun _ => rfl, fun _ => rfl, fun _ => rfl, fun _ => rfl, fun _ => rfl⟩

@[simp] theorem Part.endWait_reads (m : Part) (who : Producer) :
    (∀ q₀ : PortNo, (m.endWait who).port q₀ = m.port q₀) ∧ (∀ n₀ : SlotNo, (m.endWait who).slot n₀ = m.slot n₀) ∧
    (∀ q₀ : PortNo, (m.endWait who).queue q₀ = m.queue q₀) ∧
    (∀ t₀ : TableNo, (m.endWait who).table t₀ = m.table t₀) ∧
    (∀ t₀ : TableNo, (m.endWait who).claimList t₀ = m.claimList t₀) ∧
    (∀ q₀ : PortNo, (m.endWait who).portSetup q₀ = m.portSetup q₀) ∧
    (∀ t₀ : TableNo, (m.endWait who).tableEntry t₀ = m.tableEntry t₀) :=
  ⟨fun _ => rfl, fun _ => rfl, fun _ => rfl, fun _ => rfl, fun _ => rfl, fun _ => rfl, fun _ => rfl⟩

@[simp] theorem Part.tellClaimUnit_reads (m : Part) (i : ClaimInput) :
    (∀ q₀ : PortNo, (m.tellClaimUnit i).port q₀ = m.port q₀) ∧
    (∀ n₀ : SlotNo, (m.tellClaimUnit i).slot n₀ = m.slot n₀) ∧
    (∀ q₀ : PortNo, (m.tellClaimUnit i).queue q₀ = m.queue q₀) ∧
    (∀ t₀ : TableNo, (m.tellClaimUnit i).table t₀ = m.table t₀) ∧
    (∀ t₀ : TableNo, (m.tellClaimUnit i).claimList t₀ = m.claimList t₀) ∧
    (∀ q₀ : PortNo, (m.tellClaimUnit i).portSetup q₀ = m.portSetup q₀) ∧
    (∀ t₀ : TableNo, (m.tellClaimUnit i).tableEntry t₀ = m.tableEntry t₀) :=
  ⟨fun _ => rfl, fun _ => rfl, fun _ => rfl, fun _ => rfl, fun _ => rfl, fun _ => rfl, fun _ => rfl⟩

@[simp] theorem Part.askClaim_reads (m : Part) (p : PortNo) (t : TableNo) (mode : ClaimMode) (first count : Nat) :
    (∀ q₀ : PortNo, (m.askClaim p t mode first count).port q₀ = m.port q₀) ∧
    (∀ n₀ : SlotNo, (m.askClaim p t mode first count).slot n₀ = m.slot n₀) ∧
    (∀ q₀ : PortNo, (m.askClaim p t mode first count).queue q₀ = m.queue q₀) ∧
    (∀ t₀ : TableNo, (m.askClaim p t mode first count).table t₀ = m.table t₀) ∧
    (∀ t₀ : TableNo, (m.askClaim p t mode first count).claimList t₀ = m.claimList t₀) ∧
    (∀ q₀ : PortNo, (m.askClaim p t mode first count).portSetup q₀ = m.portSetup q₀) ∧
    (∀ t₀ : TableNo, (m.askClaim p t mode first count).tableEntry t₀ = m.tableEntry t₀) :=
  ⟨fun _ => rfl, fun _ => rfl, fun _ => rfl, fun _ => rfl, fun _ => rfl, fun _ => rfl, fun _ => rfl⟩

@[simp] theorem Part.releaseClaim_reads (m : Part) (p : PortNo) :
    (∀ q₀ : PortNo, (m.releaseClaim p).port q₀ = m.port q₀) ∧
    (∀ n₀ : SlotNo, (m.releaseClaim p).slot n₀ = m.slot n₀) ∧
    (∀ q₀ : PortNo, (m.releaseClaim p).queue q₀ = m.queue q₀) ∧
    (∀ t₀ : TableNo, (m.releaseClaim p).table t₀ = m.table t₀) ∧
    (∀ t₀ : TableNo, (m.releaseClaim p).claimList t₀ = m.claimList t₀) ∧
    (∀ q₀ : PortNo, (m.releaseClaim p).portSetup q₀ = m.portSetup q₀) ∧
    (∀ t₀ : TableNo, (m.releaseClaim p).tableEntry t₀ = m.tableEntry t₀) :=
  ⟨fun _ => rfl, fun _ => rfl, fun _ => rfl, fun _ => rfl, fun _ => rfl, fun _ => rfl, fun _ => rfl⟩

@[simp] theorem Part.tellSlotManager_reads (m : Part) (k : JobKind) :
    (∀ q₀ : PortNo, (m.tellSlotManager k).port q₀ = m.port q₀) ∧
    (∀ n₀ : SlotNo, (m.tellSlotManager k).slot n₀ = m.slot n₀) ∧
    (∀ q₀ : PortNo, (m.tellSlotManager k).queue q₀ = m.queue q₀) ∧
    (∀ t₀ : TableNo, (m.tellSlotManager k).table t₀ = m.table t₀) ∧
    (∀ t₀ : TableNo, (m.tellSlotManager k).claimList t₀ = m.claimList t₀) ∧
    (∀ q₀ : PortNo, (m.tellSlotManager k).portSetup q₀ = m.portSetup q₀) ∧
    (∀ t₀ : TableNo, (m.tellSlotManager k).tableEntry t₀ = m.tableEntry t₀) :=
  ⟨fun _ => rfl, fun _ => rfl, fun _ => rfl, fun _ => rfl, fun _ => rfl, fun _ => rfl, fun _ => rfl⟩

@[simp] theorem Part.tellPost_reads (m : Part) (k : JobKind) :
    (∀ q₀ : PortNo, (m.tellPost k).port q₀ = m.port q₀) ∧
    (∀ n₀ : SlotNo, (m.tellPost k).slot n₀ = m.slot n₀) ∧
    (∀ q₀ : PortNo, (m.tellPost k).queue q₀ = m.queue q₀) ∧
    (∀ t₀ : TableNo, (m.tellPost k).table t₀ = m.table t₀) ∧
    (∀ t₀ : TableNo, (m.tellPost k).claimList t₀ = m.claimList t₀) ∧
    (∀ q₀ : PortNo, (m.tellPost k).portSetup q₀ = m.portSetup q₀) ∧
    (∀ t₀ : TableNo, (m.tellPost k).tableEntry t₀ = m.tableEntry t₀) :=
  ⟨fun _ => rfl, fun _ => rfl, fun _ => rfl, fun _ => rfl, fun _ => rfl, fun _ => rfl, fun _ => rfl⟩

@[simp] theorem Part.sweepRead_reads (m : Part) (base : Word) (offset len : Nat) :
    (∀ q₀ : PortNo, (m.sweepRead base offset len).port q₀ = m.port q₀) ∧
    (∀ n₀ : SlotNo, (m.sweepRead base offset len).slot n₀ = m.slot n₀) ∧
    (∀ q₀ : PortNo, (m.sweepRead base offset len).queue q₀ = m.queue q₀) ∧
    (∀ t₀ : TableNo, (m.sweepRead base offset len).table t₀ = m.table t₀) ∧
    (∀ t₀ : TableNo, (m.sweepRead base offset len).claimList t₀ = m.claimList t₀) ∧
    (∀ q₀ : PortNo, (m.sweepRead base offset len).portSetup q₀ = m.portSetup q₀) ∧
    (∀ t₀ : TableNo, (m.sweepRead base offset len).tableEntry t₀ = m.tableEntry t₀) :=
  ⟨fun _ => rfl, fun _ => rfl, fun _ => rfl, fun _ => rfl, fun _ => rfl, fun _ => rfl, fun _ => rfl⟩

@[simp] theorem Part.setSweepPhase_reads (m : Part) (ph : SweepPhase) :
    (∀ q₀ : PortNo, (m.setSweepPhase ph).port q₀ = m.port q₀) ∧
    (∀ n₀ : SlotNo, (m.setSweepPhase ph).slot n₀ = m.slot n₀) ∧
    (∀ q₀ : PortNo, (m.setSweepPhase ph).queue q₀ = m.queue q₀) ∧
    (∀ t₀ : TableNo, (m.setSweepPhase ph).table t₀ = m.table t₀) ∧
    (∀ t₀ : TableNo, (m.setSweepPhase ph).claimList t₀ = m.claimList t₀) ∧
    (∀ q₀ : PortNo, (m.setSweepPhase ph).portSetup q₀ = m.portSetup q₀) ∧
    (∀ t₀ : TableNo, (m.setSweepPhase ph).tableEntry t₀ = m.tableEntry t₀) :=
  ⟨fun _ => rfl, fun _ => rfl, fun _ => rfl, fun _ => rfl, fun _ => rfl, fun _ => rfl, fun _ => rfl⟩

@[simp] theorem Part.setLoadPhase_reads (m : Part) (ph : LoadPhase) :
    (∀ q₀ : PortNo, (m.setLoadPhase ph).port q₀ = m.port q₀) ∧
    (∀ n₀ : SlotNo, (m.setLoadPhase ph).slot n₀ = m.slot n₀) ∧
    (∀ q₀ : PortNo, (m.setLoadPhase ph).queue q₀ = m.queue q₀) ∧
    (∀ t₀ : TableNo, (m.setLoadPhase ph).table t₀ = m.table t₀) ∧
    (∀ t₀ : TableNo, (m.setLoadPhase ph).claimList t₀ = m.claimList t₀) ∧
    (∀ q₀ : PortNo, (m.setLoadPhase ph).portSetup q₀ = m.portSetup q₀) ∧
    (∀ t₀ : TableNo, (m.setLoadPhase ph).tableEntry t₀ = m.tableEntry t₀) :=
  ⟨fun _ => rfl, fun _ => rfl, fun _ => rfl, fun _ => rfl, fun _ => rfl, fun _ => rfl, fun _ => rfl⟩

@[simp] theorem Part.tick_reads (m : Part) :
    (∀ q₀ : PortNo, (m.tick).port q₀ = m.port q₀) ∧ (∀ n₀ : SlotNo, (m.tick).slot n₀ = m.slot n₀) ∧
    (∀ q₀ : PortNo, (m.tick).queue q₀ = m.queue q₀) ∧ (∀ t₀ : TableNo, (m.tick).table t₀ = m.table t₀) ∧
    (∀ t₀ : TableNo, (m.tick).claimList t₀ = m.claimList t₀) ∧
    (∀ q₀ : PortNo, (m.tick).portSetup q₀ = m.portSetup q₀) ∧
    (∀ t₀ : TableNo, (m.tick).tableEntry t₀ = m.tableEntry t₀) :=
  ⟨fun _ => rfl, fun _ => rfl, fun _ => rfl, fun _ => rfl, fun _ => rfl, fun _ => rfl, fun _ => rfl⟩

/-! ### Reading back what was written -/

@[simp] theorem Part.port_setPort (m : Part) (p : PortNo) (x : Port) : (m.setPort p x).port p = x := by
  simp [Part.port, Vector.get]

theorem Part.port_setPort_of_ne (m : Part) (p q : PortNo) (x : Port) (h : p ≠ q) :
    (m.setPort p x).port q = m.port q := by
  have h' : p.val ≠ q.val := fun e => h (Fin.ext e)
  simp [Part.port, Vector.get, Vector.set, h']

@[simp] theorem Part.port_onPort (m : Part) (p : PortNo) (f : Port → Port) :
    (m.onPort p f).port p = f (m.port p) := Part.port_setPort m p _

theorem Part.port_onPort_of_ne (m : Part) (p q : PortNo) (f : Port → Port) (h : p ≠ q) :
    (m.onPort p f).port q = m.port q := Part.port_setPort_of_ne m p q _ h

@[simp] theorem Part.port_onPorts (m : Part) (p : PortNo) (f : Port → Port) :
    (m.onPorts f).port p = f (m.port p) := by
  simp [Part.port, Vector.get, Part.onPorts]
  rfl

theorem Part.port_onPort_cases (m : Part) (p q : PortNo) (f : Port → Port) :
    (m.onPort p f).port q = if p = q then f (m.port q) else m.port q := by
  by_cases h : p = q
  · subst h; simp
  · simp [h, Part.port_onPort_of_ne m p q f h]

/-- The later of two writes of one port stands. -/
@[simp] theorem Part.setPort_setPort (m : Part) (p : PortNo) (x y : Port) :
    (m.setPort p x).setPort p y = m.setPort p y := by
  simp [Part.setPort]

/-- A port written back as it is. -/
@[simp] theorem Part.setPort_port_self (m : Part) (p : PortNo) : m.setPort p (m.port p) = m := by
  have h : m.ports.set p (m.ports.get p) = m.ports := by
    ext i hi
    simp only [Vector.getElem_set]
    split
    · next e => subst e; rfl
    · rfl
  unfold Part.setPort Part.port
  rw [h]

theorem PortSetup.roleOf_master (s : PortSetup) (h : s.role = 1) : s.roleOf = .master := by simp [PortSetup.roleOf, h]

theorem PortSetup.roleOf_responder (s : PortSetup) (h : s.role = 2) : s.roleOf = .responder := by
  simp [PortSetup.roleOf, h]

theorem PortSetup.roleOf_peer (s : PortSetup) (h : s.role = 3) : s.roleOf = .peer := by simp [PortSetup.roleOf, h]

@[simp] theorem Part.slot_setSlot (m : Part) (n : SlotNo) (x : Slot) : (m.setSlot n x).slot n = x := by
  simp [Part.slot, Vector.get]

theorem Part.slot_setSlot_of_ne (m : Part) (n k : SlotNo) (x : Slot) (h : n ≠ k) :
    (m.setSlot n x).slot k = m.slot k := by
  have h' : n.val ≠ k.val := fun e => h (Fin.ext e)
  simp [Part.slot, Vector.get, Vector.set, h']

@[simp] theorem Part.slot_onSlot (m : Part) (n : SlotNo) (f : Slot → Slot) :
    (m.onSlot n f).slot n = f (m.slot n) := Part.slot_setSlot m n _

theorem Part.slot_onSlot_of_ne (m : Part) (n k : SlotNo) (f : Slot → Slot) (h : n ≠ k) :
    (m.onSlot n f).slot k = m.slot k := Part.slot_setSlot_of_ne m n k _ h

@[simp] theorem Part.queue_setQueue (m : Part) (p : PortNo) (q : List SlotNo) : (m.setQueue p q).queue p = q := by
  simp [Part.queue, Vector.get]

theorem Part.queue_setQueue_of_ne (m : Part) (p r : PortNo) (q : List SlotNo) (h : p ≠ r) :
    (m.setQueue p q).queue r = m.queue r := by
  have h' : p.val ≠ r.val := fun e => h (Fin.ext e)
  simp [Part.queue, Vector.get, Vector.set, h']

@[simp] theorem Part.table_setTable (m : Part) (t : TableNo) (x : TableRecord) : (m.setTable t x).table t = x := by
  simp [Part.table, Vector.get]

theorem Part.table_setTable_of_ne (m : Part) (t u : TableNo) (x : TableRecord) (h : t ≠ u) :
    (m.setTable t x).table u = m.table u := by
  have h' : t.val ≠ u.val := fun e => h (Fin.ext e)
  simp [Part.table, Vector.get, Vector.set, h']

@[simp] theorem Part.claimList_setClaimList (m : Part) (t : TableNo) (l : List Claim) :
    (m.setClaimList t l).claimList t = l := by
  simp [Part.claimList, Vector.get]

theorem Part.claimList_setClaimList_of_ne (m : Part) (t u : TableNo) (l : List Claim) (h : t ≠ u) :
    (m.setClaimList t l).claimList u = m.claimList u := by
  have h' : t.val ≠ u.val := fun e => h (Fin.ext e)
  simp [Part.claimList, Vector.get, Vector.set, h']

end Sys2Proof.Machine
end

