-- ==== Sys2Proof/Laws/Frames.lean ====
section
/-! SUPPORT. What no operation of the slot manager, of the claim unit, of the sweep unit or of a field port touches: the
fields of engine control and of the bus. -/

namespace Sys2Proof.Machine

set_option linter.unusedTactic false
set_option linter.unreachableTactic false
set_option linter.unnecessarySeqFocus false

/-- The fields that engine control and the memory port alone write. -/
structure ControlView where
  engine : EngineState
  setupError : BitVec 4
  faultCode : FaultCode
  faultAddress : Word
  setup : Setup
  loader : Loader
  stopSequence : Option StopStage
  clearPending : List PortNo
  bus : Option Burst
  pointer : Requester
  eventNo : Nat

def Part.control (m : Part) : ControlView :=
  ⟨m.engine, m.setupError, m.faultCode, m.faultAddress, m.setup, m.loader, m.stopSequence, m.clearPending, m.bus,
    m.pointer, m.eventNo⟩

theorem Part.engine_of_control (m m' : Part) (h : m'.control = m.control) : m'.engine = m.engine :=
  congrArg ControlView.engine h

theorem Part.setup_of_control (m m' : Part) (h : m'.control = m.control) : m'.setup = m.setup :=
  congrArg ControlView.setup h

@[simp] theorem Part.setPort_control (m : Part) (p : PortNo) (x : Port) : (m.setPort p x).control = m.control := rfl
@[simp] theorem Part.onPort_control (m : Part) (p : PortNo) (f : Port → Port) : (m.onPort p f).control = m.control := rfl
@[simp] theorem Part.onPorts_control (m : Part) (f : Port → Port) : (m.onPorts f).control = m.control := rfl
@[simp] theorem Part.raise_control (m : Part) (p : PortNo) (t : Tally) : (m.raise p t).control = m.control := rfl
@[simp] theorem Part.setSlot_control (m : Part) (n : SlotNo) (x : Slot) : (m.setSlot n x).control = m.control := rfl
@[simp] theorem Part.onSlot_control (m : Part) (n : SlotNo) (f : Slot → Slot) : (m.onSlot n f).control = m.control := rfl
@[simp] theorem Part.setQueue_control (m : Part) (p : PortNo) (q : List SlotNo) : (m.setQueue p q).control = m.control := rfl
@[simp] theorem Part.setTable_control (m : Part) (t : TableNo) (x : TableRecord) : (m.setTable t x).control = m.control := rfl
@[simp] theorem Part.setClaimList_control (m : Part) (t : TableNo) (l : List Claim) : (m.setClaimList t l).control = m.control := rfl
@[simp] theorem Part.setCause_control (m : Part) (c : Cause) : (m.setCause c).control = m.control := rfl
@[simp] theorem Part.pushEntry_control (m : Part) (e : Entry) : (m.pushEntry e).control = m.control := rfl
@[simp] theorem Part.endWait_control (m : Part) (who : Producer) : (m.endWait who).control = m.control := rfl
@[simp] theorem Part.tellClaimUnit_control (m : Part) (i : ClaimInput) : (m.tellClaimUnit i).control = m.control := rfl
@[simp] theorem Part.askClaim_control (m : Part) (p : PortNo) (t : TableNo) (mode : ClaimMode) (first count : Nat) : (m.askClaim p t mode first count).control = m.control := rfl
@[simp] theorem Part.releaseClaim_control (m : Part) (p : PortNo) : (m.releaseClaim p).control = m.control := rfl
@[simp] theorem Part.tellSlotManager_control (m : Part) (k : JobKind) : (m.tellSlotManager k).control = m.control := rfl
@[simp] theorem Part.tellPost_control (m : Part) (k : JobKind) : (m.tellPost k).control = m.control := rfl
@[simp] theorem Part.sweepRead_control (m : Part) (base : Word) (offset len : Nat) : (m.sweepRead base offset len).control = m.control := rfl
@[simp] theorem Part.setSweepPhase_control (m : Part) (ph : SweepPhase) : (m.setSweepPhase ph).control = m.control := rfl
@[simp] theorem Part.with_tree_control (m : Part) (v : List TreeTask) : ({ m with tree := v } : Part).control = m.control := rfl
@[simp] theorem Part.with_jobs_control (m : Part) (v : List Job) : ({ m with jobs := v } : Part).control = m.control := rfl
@[simp] theorem Part.with_inbox_control (m : Part) (v : List ClaimInput) : ({ m with inbox := v } : Part).control = m.control := rfl
@[simp] theorem Part.with_sweep_control (m : Part) (v : Sweep) : ({ m with sweep := v } : Part).control = m.control := rfl
@[simp] theorem Part.with_causes_control (m : Part) (v : BitVec 5) : ({ m with causes := v } : Part).control = m.control := rfl

theorem Part.startWait_control (m m' : Part) (who : Producer) (since : Nat) (h : m.startWait who since = some m') :
    m'.control = m.control := by
  unfold Part.startWait at h
  split at h
  · cases h
  · cases h; rfl

@[simp] theorem Part.fillRunFault_control (m : Part) (p : PortNo) (kind : FaultKind) (reason : Byte) : (m.fillRunFault p kind reason).control = m.control := by
  unfold Part.fillRunFault
  try dsimp only
  (repeat' split) <;> (try simp) <;> (try rfl)

@[simp] theorem Part.endRun_control (m : Part) (p : PortNo) (outcome reason : Byte) : (m.endRun p outcome reason).control = m.control := by
  unfold Part.endRun
  try dsimp only
  (repeat' split) <;> (try simp) <;> (try rfl)

@[simp] theorem Part.timerLapses_control (m : Part) (p : PortNo) : (m.timerLapses p).control = m.control := rfl

@[simp] theorem Part.sendBid_control (m : Part) (p : PortNo) (tag : Byte) : (m.sendBid p tag).control = m.control := by
  unfold Part.sendBid
  try dsimp only
  (repeat' split) <;> (try simp) <;> (try rfl)

@[simp] theorem Part.enterSending_control (m : Part) (p : PortNo) : (m.enterSending p).control = m.control := by
  unfold Part.enterSending
  try dsimp only
  (repeat' split) <;> (try simp) <;> (try rfl)

@[simp] theorem Part.startWaiting_control (m : Part) (p : PortNo) : (m.startWaiting p).control = m.control := by
  unfold Part.startWaiting
  (repeat' split) <;> (try simp) <;> (try rfl)

@[simp] theorem Part.holdoffPasses_control (m : Part) (p : PortNo) : (m.holdoffPasses p).control = m.control := by
  unfold Part.holdoffPasses
  try dsimp only
  (repeat' split) <;> (try simp) <;> (try rfl)

@[simp] theorem Part.startAttempt_control (m : Part) (p : PortNo) : (m.startAttempt p).control = m.control := by
  unfold Part.startAttempt
  try dsimp only
  (repeat' split) <;> (try simp) <;> (try rfl)

@[simp] theorem Part.attemptFailed_control (m : Part) (p : PortNo) (f : RunFailure) : (m.attemptFailed p f).control = m.control := by
  unfold Part.attemptFailed
  try dsimp only
  (repeat' split) <;> (try simp) <;> (try rfl)

@[simp] theorem Part.attemptGarbled_control (m : Part) (p : PortNo) : (m.attemptGarbled p).control = m.control := by
  unfold Part.attemptGarbled
  try dsimp only
  (repeat' split) <;> (try simp) <;> (try rfl)

@[simp] theorem Part.formRequest_control (m : Part) (p : PortNo) (o : Order) (data : List Byte) : (m.formRequest p o data).control = m.control := by
  unfold Part.formRequest
  try dsimp only
  (repeat' split) <;> (try simp) <;> (try rfl)

@[simp] theorem Part.beginRun_control (m : Part) (p : PortNo) (n : SlotNo) : (m.beginRun p n).control = m.control := by
  unfold Part.beginRun
  try dsimp only
  (repeat' split) <;> (try simp) <;> (try rfl)

@[simp] theorem Part.captured_control (m : Part) (p : PortNo) (raw : List Byte) : (m.captured p raw).control = m.control := by
  unfold Part.captured
  try dsimp only
  (repeat' split) <;> (try simp) <;> (try rfl)

@[simp] theorem Part.replyAccepted_control (m : Part) (p : PortNo) (o : Order) (body : List Byte) : (m.replyAccepted p o body).control = m.control := by
  unfold Part.replyAccepted
  try dsimp only
  (repeat' split) <;> (try simp) <;> (try rfl)

@[simp] theorem Part.refusalReceived_control (m : Part) (p : PortNo) (reason : Byte) : (m.refusalReceived p reason).control = m.control := by
  unfold Part.refusalReceived
  try dsimp only
  (repeat' split) <;> (try simp) <;> (try rfl)

@[simp] theorem Part.answerInAwaiting_control (m : Part) (p : PortNo) (f : Frame) : (m.answerInAwaiting p f).control = m.control := by
  unfold Part.answerInAwaiting
  try dsimp only
  (repeat' split) <;> (try simp) <;> (try rfl)

@[simp] theorem Part.requestSent_control (m : Part) (p : PortNo) : (m.requestSent p).control = m.control := by
  unfold Part.requestSent
  try dsimp only
  (repeat' split) <;> (try simp) <;> (try rfl)

@[simp] theorem Part.grant_control (m : Part) (p : PortNo) (tag : Byte) : (m.grant p tag).control = m.control := by
  unfold Part.grant
  try dsimp only
  (repeat' split) <;> (try simp) <;> (try rfl)

@[simp] theorem Part.yieldLine_control (m : Part) (p : PortNo) (tag : Byte) : (m.yieldLine p tag).control = m.control := by
  unfold Part.yieldLine
  try dsimp only
  (repeat' split) <;> (try simp) <;> (try rfl)

@[simp] theorem Part.grantAccepted_control (m : Part) (p : PortNo) : (m.grantAccepted p).control = m.control := by
  unfold Part.grantAccepted
  try dsimp only
  (repeat' split) <;> (try simp) <;> (try rfl)

@[simp] theorem Part.resumeRun_control (m : Part) (p : PortNo) : (m.resumeRun p).control = m.control := by
  unfold Part.resumeRun
  try dsimp only
  (repeat' split) <;> (try simp) <;> (try rfl)

@[simp] theorem Part.bidUnanswered_control (m : Part) (p : PortNo) : (m.bidUnanswered p).control = m.control := by
  unfold Part.bidUnanswered
  try dsimp only
  (repeat' split) <;> (try simp) <;> (try rfl)

@[simp] theorem Part.enterTurnaround_control (m : Part) (p : PortNo) : (m.enterTurnaround p).control = m.control := by
  unfold Part.enterTurnaround
  try dsimp only
  (repeat' split) <;> (try simp) <;> (try rfl)

@[simp] theorem Part.turnaroundEnds_control (m : Part) (p : PortNo) : (m.turnaroundEnds p).control = m.control := by
  unfold Part.turnaroundEnds
  try dsimp only
  (repeat' split) <;> (try simp) <;> (try rfl)

@[simp] theorem Part.endBroadcast_control (m : Part) (p : PortNo) : (m.endBroadcast p).control = m.control := by
  unfold Part.endBroadcast
  try dsimp only
  (repeat' split) <;> (try simp) <;> (try rfl)

@[simp] theorem Part.reply_control (m : Part) (p : PortNo) (body : List Byte) : (m.reply p body).control = m.control := by
  unfold Part.reply
  try dsimp only
  (repeat' split) <;> (try simp) <;> (try rfl)

@[simp] theorem Part.refuse_control (m : Part) (p : PortNo) (reason : Byte) : (m.refuse p reason).control = m.control := by
  unfold Part.refuse
  try dsimp only
  (repeat' split) <;> (try simp) <;> (try rfl)

@[simp] theorem Part.fillServiceFault_control (m : Part) (p : PortNo) (kind : FaultKind) (reason : Byte) : (m.fillServiceFault p kind reason).control = m.control := by
  unfold Part.fillServiceFault
  try dsimp only
  (repeat' split) <;> (try simp) <;> (try rfl)

@[simp] theorem Part.serveValidated_control (m : Part) (p : PortNo) (f : Frame) (sinh : Bool) : (m.serveValidated p f sinh).control = m.control := by
  unfold Part.serveValidated
  try dsimp only
  (repeat' split) <;> (try simp) <;> (try rfl)

@[simp] theorem Part.acceptRequest_control (m : Part) (p : PortNo) (f : Frame) (sinh : Bool) : (m.acceptRequest p f sinh).control = m.control := by
  unfold Part.acceptRequest
  try dsimp only
  (repeat' split) <;> (try simp) <;> (try rfl)

@[simp] theorem Part.startSpanWrite_control (m : Part) (p : PortNo) : (m.startSpanWrite p).control = m.control := by
  unfold Part.startSpanWrite
  try dsimp only
  (repeat' split) <;> (try simp) <;> (try rfl)

@[simp] theorem Part.lastEdgeOrWrite_control (m : Part) (p : PortNo) : (m.lastEdgeOrWrite p).control = m.control := by
  unfold Part.lastEdgeOrWrite
  try dsimp only
  (repeat' split) <;> (try simp) <;> (try rfl)

@[simp] theorem Part.startWrites_control (m : Part) (p : PortNo) : (m.startWrites p).control = m.control := by
  unfold Part.startWrites
  try dsimp only
  (repeat' split) <;> (try simp) <;> (try rfl)

@[simp] theorem Part.claimGranted_control (m : Part) (p : PortNo) : (m.claimGranted p).control = m.control := by
  unfold Part.claimGranted
  try dsimp only
  (repeat' split) <;> (try simp) <;> (try rfl)

@[simp] theorem Part.fetchDone_control (m : Part) (p : PortNo) (raw : List Byte) : (m.fetchDone p raw).control = m.control := by
  unfold Part.fetchDone
  try dsimp only
  (repeat' split) <;> (try simp) <;> (try rfl)

@[simp] theorem Part.modifyReadDone_control (m : Part) (p : PortNo) (raw : List Byte) : (m.modifyReadDone p raw).control = m.control := by
  unfold Part.modifyReadDone
  try dsimp only
  (repeat' split) <;> (try simp) <;> (try rfl)

@[simp] theorem Part.portAccessDone_control (m : Part) (p : PortNo) (raw : List Byte) : (m.portAccessDone p raw).control = m.control := by
  unfold Part.portAccessDone
  try dsimp only
  (repeat' split) <;> (try simp) <;> (try rfl)

@[simp] theorem Part.portBusError_control (m : Part) (p : PortNo) : (m.portBusError p).control = m.control := by
  unfold Part.portBusError
  try dsimp only
  (repeat' split) <;> (try simp) <;> (try rfl)

@[simp] theorem Part.claimTimedOut_control (m : Part) (p : PortNo) : (m.claimTimedOut p).control = m.control := by
  unfold Part.claimTimedOut
  try dsimp only
  (repeat' split) <;> (try simp) <;> (try rfl)

@[simp] theorem Part.requestAtReady_control (m : Part) (p : PortNo) (f : Frame) (sinh : Bool) : (m.requestAtReady p f sinh).control = m.control := by
  unfold Part.requestAtReady
  try dsimp only
  (repeat' split) <;> (try simp) <;> (try rfl)

@[simp] theorem Part.goodAtMaster_control (m : Part) (p : PortNo) (f : Frame) : (m.goodAtMaster p f).control = m.control := by
  unfold Part.goodAtMaster
  try dsimp only
  (repeat' split) <;> (try simp) <;> (try rfl)

@[simp] theorem Part.goodAtResponder_control (m : Part) (p : PortNo) (f : Frame) (sinh : Bool) : (m.goodAtResponder p f sinh).control = m.control := by
  unfold Part.goodAtResponder
  try dsimp only
  (repeat' split) <;> (try simp) <;> (try rfl)

@[simp] theorem Part.partnerBid_control (m : Part) (p : PortNo) (tag : Byte) : (m.partnerBid p tag).control = m.control := by
  unfold Part.partnerBid
  try dsimp only
  (repeat' split) <;> (try simp) <;> (try rfl)

@[simp] theorem Part.requestAtPeer_control (m : Part) (p : PortNo) (f : Frame) (sinh : Bool) : (m.requestAtPeer p f sinh).control = m.control := by
  unfold Part.requestAtPeer
  try dsimp only
  (repeat' split) <;> (try simp) <;> (try rfl)

@[simp] theorem Part.goodAtPeer_control (m : Part) (p : PortNo) (f : Frame) (sinh : Bool) : (m.goodAtPeer p f sinh).control = m.control := by
  unfold Part.goodAtPeer
  try dsimp only
  (repeat' split) <;> (try simp) <;> (try rfl)

@[simp] theorem Part.goodReport_control (m : Part) (p : PortNo) (f : Frame) (sinh : Bool) : (m.goodReport p f sinh).control = m.control := by
  unfold Part.goodReport
  try dsimp only
  (repeat' split) <;> (try simp) <;> (try rfl)

@[simp] theorem Part.unreadable_control (m : Part) (p : PortNo) (t : Tally) : (m.unreadable p t).control = m.control := by
  unfold Part.unreadable
  try dsimp only
  (repeat' split) <;> (try simp) <;> (try rfl)

@[simp] theorem Part.takeReport_control (m : Part) (p : PortNo) (r : Report) (sinh : Bool) : (m.takeReport p r sinh).control = m.control := by
  unfold Part.takeReport
  try dsimp only
  (repeat' split) <;> (try simp) <;> (try rfl)

@[simp] theorem Part.character_control (m : Part) (p : PortNo) (levels : Levels) (edge sinh : Bool) : (m.character p levels edge sinh).control = m.control := by
  unfold Part.character
  try dsimp only
  (repeat' split) <;> (try simp) <;> (try rfl)

@[simp] theorem Part.gapPassed_control (m : Part) (p : PortNo) : (m.gapPassed p).control = m.control := by
  unfold Part.gapPassed
  try dsimp only
  (repeat' split) <;> (try simp) <;> (try rfl)

@[simp] theorem Part.gapComplete_control (m : Part) (p : PortNo) : (m.gapComplete p).control = m.control := by
  unfold Part.gapComplete
  try dsimp only
  (repeat' split) <;> (try simp) <;> (try rfl)

@[simp] theorem Part.startEdge_control (m : Part) (p : PortNo) : (m.startEdge p).control = m.control := by
  unfold Part.startEdge
  try dsimp only
  (repeat' split) <;> (try simp) <;> (try rfl)

@[simp] theorem Part.placeTriggered_control (m : Part) (n : SlotNo) : (m.placeTriggered n).control = m.control := by
  unfold Part.placeTriggered
  try dsimp only
  (repeat' split) <;> (try simp) <;> (try rfl)

@[simp] theorem Part.unqueue_control (m : Part) (n : SlotNo) : (m.unqueue n).control = m.control := by
  unfold Part.unqueue
  try dsimp only
  (repeat' split) <;> (try simp) <;> (try rfl)

@[simp] theorem Part.trigger_control (m : Part) (n : SlotNo) : (m.trigger n).control = m.control := by
  unfold Part.trigger
  try dsimp only
  (repeat' split) <;> (try simp) <;> (try rfl)

@[simp] theorem Part.takeExpiry_control (m : Part) (n : SlotNo) : (m.takeExpiry n).control = m.control := by
  unfold Part.takeExpiry
  try dsimp only
  (repeat' split) <;> (try simp) <;> (try rfl)

@[simp] theorem Part.requeue_control (m : Part) (n : SlotNo) : (m.requeue n).control = m.control := by
  unfold Part.requeue
  try dsimp only
  (repeat' split) <;> (try simp) <;> (try rfl)

@[simp] theorem Part.notifySlot_control (m : Part) (notify : Bool) : (m.notifySlot notify).control = m.control := by
  unfold Part.notifySlot
  try dsimp only
  (repeat' split) <;> (try simp) <;> (try rfl)

@[simp] theorem Part.complete_control (m : Part) (base : Word) (n : SlotNo) (c : Completion) : (m.complete base n c).control = m.control := by
  unfold Part.complete
  try dsimp only
  (repeat' split) <;> (try simp) <;> (try rfl)

@[simp] theorem Part.markFollowers_control (m : Part) (n : SlotNo) : (m.markFollowers n).control = m.control := by
  have fold : ∀ (l : List SlotNo) (m : Part),
      (l.foldl (fun m k => m.onSlot k Slot.marked) m).control = m.control := by
    intro l
    induction l with
    | nil => intro m; rfl
    | cons a l ih => intro m; simp [ih]
  exact fold _ _

@[simp] theorem Part.deliver_control (m : Part) (n : SlotNo) (ok left : Bool) : (m.deliver n ok left).control = m.control := by
  have fold : ∀ (l : List SlotNo) (m : Part), (l.foldl Part.trigger m).control = m.control := by
    intro l
    induction l with
    | nil => intro m; rfl
    | cons a l ih => intro m; simp [ih]
  unfold Part.deliver
  cases ok <;> cases left <;> simp [fold]

@[simp] theorem Part.completeAndDeliver_control (m : Part) (base : Word) (n : SlotNo) (c : Completion) : (m.completeAndDeliver base n c).control = m.control := by
  unfold Part.completeAndDeliver
  try dsimp only
  (repeat' split) <;> (try simp) <;> (try rfl)

@[simp] theorem Part.queuePostWord_control (m : Part) (base : Word) (n : SlotNo) : (m.queuePostWord base n).control = m.control := by
  unfold Part.queuePostWord
  try dsimp only
  (repeat' split) <;> (try simp) <;> (try rfl)

@[simp] theorem Part.doTask_control (m : Part) (base : Word) (t : TreeTask) : (m.doTask base t).control = m.control := by
  unfold Part.doTask
  try dsimp only
  (repeat' split) <;> (try simp) <;> (try rfl)

@[simp] theorem Part.takeEnding_control (m : Part) (base : Word) (p : PortNo) : (m.takeEnding base p).control = m.control := by
  unfold Part.takeEnding
  try dsimp only
  (repeat' split) <;> (try simp) <;> (try rfl)

@[simp] theorem Part.queueRejection_control (m : Part) (base : Word) (n : SlotNo) (notify : Bool) : (m.queueRejection base n notify).control = m.control := by
  unfold Part.queueRejection
  try dsimp only
  (repeat' split) <;> (try simp) <;> (try rfl)

@[simp] theorem Part.doJob_control (m : Part) (base : Word) (k : JobKind) : (m.doJob base k).control = m.control := by
  unfold Part.doJob
  try dsimp only
  (repeat' split) <;> (try simp) <;> (try rfl)

@[simp] theorem Part.periodExpired_control (m : Part) (n : SlotNo) : (m.periodExpired n).control = m.control := by
  unfold Part.periodExpired
  try dsimp only
  (repeat' split) <;> (try simp) <;> (try rfl)

@[simp] theorem Part.takeOrder_control (m : Part) (n : SlotNo) (o : Order) : (m.takeOrder n o).control = m.control := by
  unfold Part.takeOrder
  try dsimp only
  (repeat' split) <;> (try simp) <;> (try rfl)

@[simp] theorem Part.answerPost_control (m : Part) (n : SlotNo) (o : PostOutcome) : (m.answerPost n o).control = m.control := by
  unfold Part.answerPost
  try dsimp only
  (repeat' split) <;> (try simp) <;> (try rfl)

@[simp] theorem Part.armPost_control (m : Part) (n : SlotNo) (o : Order) : (m.armPost n o).control = m.control := by
  unfold Part.armPost
  try dsimp only
  (repeat' split) <;> (try simp) <;> (try rfl)

@[simp] theorem Part.tellLeft_control (m : Part) (n : SlotNo) : (m.tellLeft n).control = m.control := by
  unfold Part.tellLeft
  try dsimp only
  (repeat' split) <;> (try simp) <;> (try rfl)

@[simp] theorem Part.withdrawPost_control (m : Part) (n : SlotNo) : (m.withdrawPost n).control = m.control := by
  unfold Part.withdrawPost
  try dsimp only
  (repeat' split) <;> (try simp) <;> (try rfl)

@[simp] theorem Part.tellGranted_control (m : Part) (t : TableNo) (who : Claimant) : (m.tellGranted t who).control = m.control := by
  unfold Part.tellGranted
  try dsimp only
  (repeat' split) <;> (try simp) <;> (try rfl)

@[simp] theorem Part.tellAllGranted_control (m : Part) (t : TableNo) (l : List Claimant) : (m.tellAllGranted t l).control = m.control := by
  unfold Part.tellAllGranted
  induction l generalizing m with
  | nil => rfl
  | cons a l ih => simp [ih]

@[simp] theorem Part.claimArrives_control (m : Part) (t : TableNo) (c : Claim) : (m.claimArrives t c).control = m.control := by
  unfold Part.claimArrives
  try dsimp only
  (repeat' split) <;> (try simp) <;> (try rfl)

@[simp] theorem Part.claimLeaves_control (m : Part) (t : TableNo) (who : Claimant) : (m.claimLeaves t who).control = m.control := by
  unfold Part.claimLeaves
  try dsimp only
  (repeat' split) <;> (try simp) <;> (try rfl)

@[simp] theorem Part.queueTableRecord_control (m : Part) (base : Word) (t : TableNo) : (m.queueTableRecord base t).control = m.control := by
  unfold Part.queueTableRecord
  try dsimp only
  (repeat' split) <;> (try simp) <;> (try rfl)

@[simp] theorem Part.portLeaves_control (m : Part) (base : Word) (p : PortNo) : (m.portLeaves base p).control = m.control := by
  unfold Part.portLeaves
  try dsimp only
  (repeat' split) <;> (try simp) <;> (try rfl)

@[simp] theorem Part.claimExpires_control (m : Part) (base : Word) (p : PortNo) : (m.claimExpires base p).control = m.control := by
  unfold Part.claimExpires
  try dsimp only
  (repeat' split) <;> (try simp) <;> (try rfl)

@[simp] theorem Part.recordStore_control (m : Part) (base : Word) (p : PortNo) : (m.recordStore base p).control = m.control := by
  unfold Part.recordStore
  try dsimp only
  (repeat' split) <;> (try simp) <;> (try rfl)

@[simp] theorem Part.storeApplied_control (m : Part) (base : Word) (p : PortNo) : (m.storeApplied base p).control = m.control := by
  unfold Part.storeApplied
  try dsimp only
  (repeat' split) <;> simp only [Part.reply_control, Part.with_inbox_control, Part.recordStore_control]

@[simp] theorem Part.takeHoldPost_control (m : Part) (base : Word) (t : TableNo) (wanted : Byte) (post : Half) : (m.takeHoldPost base t wanted post).control = m.control := by
  unfold Part.takeHoldPost
  try dsimp only
  (repeat' split) <;> (try simp) <;> (try rfl)

@[simp] theorem Part.doInput_control (m : Part) (base : Word) (i : ClaimInput) : (m.doInput base i).control = m.control := by
  unfold Part.doInput
  try dsimp only
  (repeat' split) <;> (try simp) <;> (try rfl)

@[simp] theorem Part.claimLimitPassed_control (m : Part) (p : PortNo) : (m.claimLimitPassed p).control = m.control := by
  unfold Part.claimLimitPassed
  try dsimp only
  (repeat' split) <;> (try simp) <;> (try rfl)

@[simp] theorem Part.startSweep_control (m : Part) (base : Word) : (m.startSweep base).control = m.control := by
  unfold Part.startSweep
  try dsimp only
  (repeat' split) <;> (try simp) <;> (try rfl)

@[simp] theorem Part.sweepTimerExpired_control (m : Part) (base : Word) : (m.sweepTimerExpired base).control = m.control := by
  unfold Part.sweepTimerExpired
  try dsimp only
  (repeat' split) <;> (try simp) <;> (try rfl)

@[simp] theorem Part.sweepAsked_control (m : Part) (base : Word) : (m.sweepAsked base).control = m.control := by
  unfold Part.sweepAsked
  try dsimp only
  (repeat' split) <;> (try simp) <;> (try rfl)

@[simp] theorem Part.evaluatePresence_control (m : Part)  : (m.evaluatePresence).control = m.control := by
  unfold Part.evaluatePresence
  try dsimp only
  (repeat' split) <;> (try simp) <;> (try rfl)

@[simp] theorem Part.readSlotWord_control (m : Part) (base : Word) (n : Nat) : (m.readSlotWord base n).control = m.control := by
  unfold Part.readSlotWord
  try dsimp only
  (repeat' split) <;> (try simp) <;> (try rfl)

@[simp] theorem Part.readHoldWord_control (m : Part) (base : Word) (t : Nat) : (m.readHoldWord base t).control = m.control := by
  unfold Part.readHoldWord
  try dsimp only
  (repeat' split) <;> (try simp) <;> (try rfl)

@[simp] theorem Part.afterSlot_control (m : Part) (base : Word) (n : Nat) : (m.afterSlot base n).control = m.control := by
  unfold Part.afterSlot
  try dsimp only
  (repeat' split) <;> (try simp) <;> (try rfl)

@[simp] theorem Part.afterHold_control (m : Part) (base : Word) (t : Nat) : (m.afterHold base t).control = m.control := by
  unfold Part.afterHold
  try dsimp only
  (repeat' split) <;> (try simp) <;> (try rfl)

@[simp] theorem Part.handPost_control (m : Part) (base : Word) (n : Nat) : (m.handPost base n).control = m.control := by
  unfold Part.handPost
  try dsimp only
  (repeat' split) <;> (try simp) <;> (try rfl)

@[simp] theorem Part.sweepReadDone_control (m : Part) (base : Word) (bytes : List Byte) : (m.sweepReadDone base bytes).control = m.control := by
  unfold Part.sweepReadDone
  try dsimp only
  (repeat' split) <;> (try simp) <;> (try rfl)

@[simp] theorem Part.endSweep_control (m : Part) (base : Word) : (m.endSweep base).control = m.control := by
  unfold Part.endSweep
  try dsimp only
  (repeat' split) <;> (try simp) <;> (try rfl)

theorem Part.treeStep_control (m m' : Part) (base : Word) (h : m.treeStep base = some m') : m'.control = m.control := by
  unfold Part.treeStep at h
  (repeat' split at h) <;>
    first
      | (cases h; done)
      | (cases h; simp; done)
      | exact Part.startWait_control _ _ _ _ h


theorem Part.jobStep_control (m m' : Part) (base : Word) (h : m.jobStep base = some m') : m'.control = m.control := by
  unfold Part.jobStep at h
  (repeat' split at h) <;>
    first
      | (cases h; done)
      | (cases h; simp; done)
      | exact Part.startWait_control _ _ _ _ h


theorem Part.headStep_control (m m' : Part) (p : PortNo) (h : m.headStep p = some m') : m'.control = m.control := by
  unfold Part.headStep at h
  (repeat' split at h) <;>
    first
      | (cases h; done)
      | (cases h; simp; done)
      | exact Part.startWait_control _ _ _ _ h


theorem Part.resumeStep_control (m m' : Part) (p : PortNo) (h : m.resumeStep p = some m') : m'.control = m.control := by
  unfold Part.resumeStep at h
  (repeat' split at h) <;>
    first
      | (cases h; done)
      | (cases h; simp; done)
      | exact Part.startWait_control _ _ _ _ h


theorem Part.claimStep_control (m m' : Part) (base : Word) (h : m.claimStep base = some m') : m'.control = m.control := by
  unfold Part.claimStep at h
  (repeat' split at h) <;>
    first
      | (cases h; done)
      | (cases h; simp; done)
      | exact Part.startWait_control _ _ _ _ h


theorem Part.sweepEntry_control (m m' : Part) (base : Word) (h : m.sweepEntry base = some m') : m'.control = m.control := by
  unfold Part.sweepEntry at h
  (repeat' split at h) <;>
    first
      | (cases h; done)
      | (cases h; simp; done)
      | exact Part.startWait_control _ _ _ _ h


theorem Part.sweepStep_control (m m' : Part) (base : Word) (h : m.sweepStep base = some m') : m'.control = m.control := by
  unfold Part.sweepStep at h
  (repeat' split at h) <;>
    first
      | (cases h; done)
      | (cases h; simp; done)
      | exact Part.startWait_control _ _ _ _ h
      | exact Part.sweepEntry_control _ _ _ h

end Sys2Proof.Machine
end

