-- ==== Sys2Proof/Laws/Blocks.lean ====
section
/-! SUPPORT. What the operations of a field port, of the slot manager and of the claim unit leave of the other blocks. -/

namespace Sys2Proof.Machine

set_option linter.unusedTactic false
set_option linter.unreachableTactic false
set_option linter.unnecessarySeqFocus false

/-- What no operation of a field port touches, beside the fields of engine control. -/
structure BeyondPorts where
  causes : BitVec 5
  queues : Vector (List SlotNo) 4
  tree : List TreeTask
  tables : Vector TableRecord 8
  claims : Vector (List Claim) 8
  sweep : Sweep
  xq : List Entry
  waiters : List Waiter
  sweepAccess : Option Access

def Part.beyondPorts (m : Part) : BeyondPorts :=
  ⟨m.causes, m.queues, m.tree, m.tables, m.claims, m.sweep, m.xq, m.waiters, m.sweepAccess⟩

/-- What no operation of the slot manager touches, beside the fields of engine control. -/
structure BeyondSlots where
  tables : Vector TableRecord 8
  claims : Vector (List Claim) 8
  inbox : List ClaimInput
  sweep : Sweep
  waiters : List Waiter
  sweepAccess : Option Access

def Part.beyondSlots (m : Part) : BeyondSlots :=
  ⟨m.tables, m.claims, m.inbox, m.sweep, m.waiters, m.sweepAccess⟩

/-- What no operation of the claim unit touches, beside the fields of engine control. -/
structure BeyondClaims where
  slots : Vector Slot 16
  queues : Vector (List SlotNo) 4
  tree : List TreeTask
  sweep : Sweep
  waiters : List Waiter
  sweepAccess : Option Access

def Part.beyondClaims (m : Part) : BeyondClaims :=
  ⟨m.slots, m.queues, m.tree, m.sweep, m.waiters, m.sweepAccess⟩

/-! ### Field ports -/

@[simp] theorem Part.setPort_beyondPorts (m : Part) (p : PortNo) (x : Port) : (m.setPort p x).beyondPorts = m.beyondPorts := rfl
@[simp] theorem Part.onPort_beyondPorts (m : Part) (p : PortNo) (f : Port → Port) : (m.onPort p f).beyondPorts = m.beyondPorts := rfl
@[simp] theorem Part.onPorts_beyondPorts (m : Part) (f : Port → Port) : (m.onPorts f).beyondPorts = m.beyondPorts := rfl
@[simp] theorem Part.raise_beyondPorts (m : Part) (p : PortNo) (t : Tally) : (m.raise p t).beyondPorts = m.beyondPorts := rfl
@[simp] theorem Part.setSlot_beyondPorts (m : Part) (n : SlotNo) (x : Slot) : (m.setSlot n x).beyondPorts = m.beyondPorts := rfl
@[simp] theorem Part.onSlot_beyondPorts (m : Part) (n : SlotNo) (f : Slot → Slot) : (m.onSlot n f).beyondPorts = m.beyondPorts := rfl
@[simp] theorem Part.tellClaimUnit_beyondPorts (m : Part) (i : ClaimInput) : (m.tellClaimUnit i).beyondPorts = m.beyondPorts := rfl
@[simp] theorem Part.askClaim_beyondPorts (m : Part) (p : PortNo) (t : TableNo) (mode : ClaimMode) (first count : Nat) : (m.askClaim p t mode first count).beyondPorts = m.beyondPorts := rfl
@[simp] theorem Part.releaseClaim_beyondPorts (m : Part) (p : PortNo) : (m.releaseClaim p).beyondPorts = m.beyondPorts := rfl
@[simp] theorem Part.tellSlotManager_beyondPorts (m : Part) (k : JobKind) : (m.tellSlotManager k).beyondPorts = m.beyondPorts := rfl

@[simp] theorem Part.fillRunFault_beyondPorts (m : Part) (p : PortNo) (kind : FaultKind) (reason : Byte) : (m.fillRunFault p kind reason).beyondPorts = m.beyondPorts := by
  unfold Part.fillRunFault
  try dsimp only
  (repeat' split) <;> (try simp) <;> (try rfl)

@[simp] theorem Part.endRun_beyondPorts (m : Part) (p : PortNo) (outcome reason : Byte) : (m.endRun p outcome reason).beyondPorts = m.beyondPorts := by
  unfold Part.endRun
  try dsimp only
  (repeat' split) <;> (try simp) <;> (try rfl)

@[simp] theorem Part.timerLapses_beyondPorts (m : Part) (p : PortNo) : (m.timerLapses p).beyondPorts = m.beyondPorts := rfl

@[simp] theorem Part.sendBid_beyondPorts (m : Part) (p : PortNo) (tag : Byte) : (m.sendBid p tag).beyondPorts = m.beyondPorts := by
  unfold Part.sendBid
  try dsimp only
  (repeat' split) <;> (try simp) <;> (try rfl)

@[simp] theorem Part.enterSending_beyondPorts (m : Part) (p : PortNo) : (m.enterSending p).beyondPorts = m.beyondPorts := by
  unfold Part.enterSending
  try dsimp only
  (repeat' split) <;> (try simp) <;> (try rfl)

@[simp] theorem Part.startWaiting_beyondPorts (m : Part) (p : PortNo) : (m.startWaiting p).beyondPorts = m.beyondPorts := by
  unfold Part.startWaiting
  (repeat' split) <;> (try simp) <;> (try rfl)

@[simp] theorem Part.holdoffPasses_beyondPorts (m : Part) (p : PortNo) : (m.holdoffPasses p).beyondPorts = m.beyondPorts := by
  unfold Part.holdoffPasses
  try dsimp only
  (repeat' split) <;> (try simp) <;> (try rfl)

@[simp] theorem Part.startAttempt_beyondPorts (m : Part) (p : PortNo) : (m.startAttempt p).beyondPorts = m.beyondPorts := by
  unfold Part.startAttempt
  try dsimp only
  (repeat' split) <;> (try simp) <;> (try rfl)

@[simp] theorem Part.attemptFailed_beyondPorts (m : Part) (p : PortNo) (f : RunFailure) : (m.attemptFailed p f).beyondPorts = m.beyondPorts := by
  unfold Part.attemptFailed
  try dsimp only
  (repeat' split) <;> (try simp) <;> (try rfl)

@[simp] theorem Part.attemptGarbled_beyondPorts (m : Part) (p : PortNo) : (m.attemptGarbled p).beyondPorts = m.beyondPorts := by
  unfold Part.attemptGarbled
  try dsimp only
  (repeat' split) <;> (try simp) <;> (try rfl)

@[simp] theorem Part.formRequest_beyondPorts (m : Part) (p : PortNo) (o : Order) (data : List Byte) : (m.formRequest p o data).beyondPorts = m.beyondPorts := by
  unfold Part.formRequest
  try dsimp only
  (repeat' split) <;> (try simp) <;> (try rfl)

@[simp] theorem Part.beginRun_beyondPorts (m : Part) (p : PortNo) (n : SlotNo) : (m.beginRun p n).beyondPorts = m.beyondPorts := by
  unfold Part.beginRun
  try dsimp only
  (repeat' split) <;> (try simp) <;> (try rfl)

@[simp] theorem Part.captured_beyondPorts (m : Part) (p : PortNo) (raw : List Byte) : (m.captured p raw).beyondPorts = m.beyondPorts := by
  unfold Part.captured
  try dsimp only
  (repeat' split) <;> (try simp) <;> (try rfl)

@[simp] theorem Part.replyAccepted_beyondPorts (m : Part) (p : PortNo) (o : Order) (body : List Byte) : (m.replyAccepted p o body).beyondPorts = m.beyondPorts := by
  unfold Part.replyAccepted
  try dsimp only
  (repeat' split) <;> (try simp) <;> (try rfl)

@[simp] theorem Part.refusalReceived_beyondPorts (m : Part) (p : PortNo) (reason : Byte) : (m.refusalReceived p reason).beyondPorts = m.beyondPorts := by
  unfold Part.refusalReceived
  try dsimp only
  (repeat' split) <;> (try simp) <;> (try rfl)

@[simp] theorem Part.answerInAwaiting_beyondPorts (m : Part) (p : PortNo) (f : Frame) : (m.answerInAwaiting p f).beyondPorts = m.beyondPorts := by
  unfold Part.answerInAwaiting
  try dsimp only
  (repeat' split) <;> (try simp) <;> (try rfl)

@[simp] theorem Part.requestSent_beyondPorts (m : Part) (p : PortNo) : (m.requestSent p).beyondPorts = m.beyondPorts := by
  unfold Part.requestSent
  try dsimp only
  (repeat' split) <;> (try simp) <;> (try rfl)

@[simp] theorem Part.grant_beyondPorts (m : Part) (p : PortNo) (tag : Byte) : (m.grant p tag).beyondPorts = m.beyondPorts := by
  unfold Part.grant
  try dsimp only
  (repeat' split) <;> (try simp) <;> (try rfl)

@[simp] theorem Part.yieldLine_beyondPorts (m : Part) (p : PortNo) (tag : Byte) : (m.yieldLine p tag).beyondPorts = m.beyondPorts := by
  unfold Part.yieldLine
  try dsimp only
  (repeat' split) <;> (try simp) <;> (try rfl)

@[simp] theorem Part.grantAccepted_beyondPorts (m : Part) (p : PortNo) : (m.grantAccepted p).beyondPorts = m.beyondPorts := by
  unfold Part.grantAccepted
  try dsimp only
  (repeat' split) <;> (try simp) <;> (try rfl)

@[simp] theorem Part.resumeRun_beyondPorts (m : Part) (p : PortNo) : (m.resumeRun p).beyondPorts = m.beyondPorts := by
  unfold Part.resumeRun
  try dsimp only
  (repeat' split) <;> (try simp) <;> (try rfl)

@[simp] theorem Part.bidUnanswered_beyondPorts (m : Part) (p : PortNo) : (m.bidUnanswered p).beyondPorts = m.beyondPorts := by
  unfold Part.bidUnanswered
  try dsimp only
  (repeat' split) <;> (try simp) <;> (try rfl)

@[simp] theorem Part.enterTurnaround_beyondPorts (m : Part) (p : PortNo) : (m.enterTurnaround p).beyondPorts = m.beyondPorts := by
  unfold Part.enterTurnaround
  try dsimp only
  (repeat' split) <;> (try simp) <;> (try rfl)

@[simp] theorem Part.turnaroundEnds_beyondPorts (m : Part) (p : PortNo) : (m.turnaroundEnds p).beyondPorts = m.beyondPorts := by
  unfold Part.turnaroundEnds
  try dsimp only
  (repeat' split) <;> (try simp) <;> (try rfl)

@[simp] theorem Part.endBroadcast_beyondPorts (m : Part) (p : PortNo) : (m.endBroadcast p).beyondPorts = m.beyondPorts := by
  unfold Part.endBroadcast
  try dsimp only
  (repeat' split) <;> (try simp) <;> (try rfl)

@[simp] theorem Part.reply_beyondPorts (m : Part) (p : PortNo) (body : List Byte) : (m.reply p body).beyondPorts = m.beyondPorts := by
  unfold Part.reply
  try dsimp only
  (repeat' split) <;> (try simp) <;> (try rfl)

@[simp] theorem Part.refuse_beyondPorts (m : Part) (p : PortNo) (reason : Byte) : (m.refuse p reason).beyondPorts = m.beyondPorts := by
  unfold Part.refuse
  try dsimp only
  (repeat' split) <;> (try simp) <;> (try rfl)

@[simp] theorem Part.fillServiceFault_beyondPorts (m : Part) (p : PortNo) (kind : FaultKind) (reason : Byte) : (m.fillServiceFault p kind reason).beyondPorts = m.beyondPorts := by
  unfold Part.fillServiceFault
  try dsimp only
  (repeat' split) <;> (try simp) <;> (try rfl)

@[simp] theorem Part.serveValidated_beyondPorts (m : Part) (p : PortNo) (f : Frame) (sinh : Bool) : (m.serveValidated p f sinh).beyondPorts = m.beyondPorts := by
  unfold Part.serveValidated
  try dsimp only
  (repeat' split) <;> (try simp) <;> (try rfl)

@[simp] theorem Part.acceptRequest_beyondPorts (m : Part) (p : PortNo) (f : Frame) (sinh : Bool) : (m.acceptRequest p f sinh).beyondPorts = m.beyondPorts := by
  unfold Part.acceptRequest
  try dsimp only
  (repeat' split) <;> (try simp) <;> (try rfl)

@[simp] theorem Part.startSpanWrite_beyondPorts (m : Part) (p : PortNo) : (m.startSpanWrite p).beyondPorts = m.beyondPorts := by
  unfold Part.startSpanWrite
  try dsimp only
  (repeat' split) <;> (try simp) <;> (try rfl)

@[simp] theorem Part.lastEdgeOrWrite_beyondPorts (m : Part) (p : PortNo) : (m.lastEdgeOrWrite p).beyondPorts = m.beyondPorts := by
  unfold Part.lastEdgeOrWrite
  try dsimp only
  (repeat' split) <;> (try simp) <;> (try rfl)

@[simp] theorem Part.startWrites_beyondPorts (m : Part) (p : PortNo) : (m.startWrites p).beyondPorts = m.beyondPorts := by
  unfold Part.startWrites
  try dsimp only
  (repeat' split) <;> (try simp) <;> (try rfl)

@[simp] theorem Part.claimGranted_beyondPorts (m : Part) (p : PortNo) : (m.claimGranted p).beyondPorts = m.beyondPorts := by
  unfold Part.claimGranted
  try dsimp only
  (repeat' split) <;> (try simp) <;> (try rfl)

@[simp] theorem Part.fetchDone_beyondPorts (m : Part) (p : PortNo) (raw : List Byte) : (m.fetchDone p raw).beyondPorts = m.beyondPorts := by
  unfold Part.fetchDone
  try dsimp only
  (repeat' split) <;> (try simp) <;> (try rfl)

@[simp] theorem Part.modifyReadDone_beyondPorts (m : Part) (p : PortNo) (raw : List Byte) : (m.modifyReadDone p raw).beyondPorts = m.beyondPorts := by
  unfold Part.modifyReadDone
  try dsimp only
  (repeat' split) <;> (try simp) <;> (try rfl)

@[simp] theorem Part.portAccessDone_beyondPorts (m : Part) (p : PortNo) (raw : List Byte) : (m.portAccessDone p raw).beyondPorts = m.beyondPorts := by
  unfold Part.portAccessDone
  try dsimp only
  (repeat' split) <;> (try simp) <;> (try rfl)

@[simp] theorem Part.portBusError_beyondPorts (m : Part) (p : PortNo) : (m.portBusError p).beyondPorts = m.beyondPorts := by
  unfold Part.portBusError
  try dsimp only
  (repeat' split) <;> (try simp) <;> (try rfl)

@[simp] theorem Part.claimTimedOut_beyondPorts (m : Part) (p : PortNo) : (m.claimTimedOut p).beyondPorts = m.beyondPorts := by
  unfold Part.claimTimedOut
  try dsimp only
  (repeat' split) <;> (try simp) <;> (try rfl)

@[simp] theorem Part.requestAtReady_beyondPorts (m : Part) (p : PortNo) (f : Frame) (sinh : Bool) : (m.requestAtReady p f sinh).beyondPorts = m.beyondPorts := by
  unfold Part.requestAtReady
  try dsimp only
  (repeat' split) <;> (try simp) <;> (try rfl)

@[simp] theorem Part.goodAtMaster_beyondPorts (m : Part) (p : PortNo) (f : Frame) : (m.goodAtMaster p f).beyondPorts = m.beyondPorts := by
  unfold Part.goodAtMaster
  try dsimp only
  (repeat' split) <;> (try simp) <;> (try rfl)

@[simp] theorem Part.goodAtResponder_beyondPorts (m : Part) (p : PortNo) (f : Frame) (sinh : Bool) : (m.goodAtResponder p f sinh).beyondPorts = m.beyondPorts := by
  unfold Part.goodAtResponder
  try dsimp only
  (repeat' split) <;> (try simp) <;> (try rfl)

@[simp] theorem Part.partnerBid_beyondPorts (m : Part) (p : PortNo) (tag : Byte) : (m.partnerBid p tag).beyondPorts = m.beyondPorts := by
  unfold Part.partnerBid
  try dsimp only
  (repeat' split) <;> (try simp) <;> (try rfl)

@[simp] theorem Part.requestAtPeer_beyondPorts (m : Part) (p : PortNo) (f : Frame) (sinh : Bool) : (m.requestAtPeer p f sinh).beyondPorts = m.beyondPorts := by
  unfold Part.requestAtPeer
  try dsimp only
  (repeat' split) <;> (try simp) <;> (try rfl)

@[simp] theorem Part.goodAtPeer_beyondPorts (m : Part) (p : PortNo) (f : Frame) (sinh : Bool) : (m.goodAtPeer p f sinh).beyondPorts = m.beyondPorts := by
  unfold Part.goodAtPeer
  try dsimp only
  (repeat' split) <;> (try simp) <;> (try rfl)

@[simp] theorem Part.goodReport_beyondPorts (m : Part) (p : PortNo) (f : Frame) (sinh : Bool) : (m.goodReport p f sinh).beyondPorts = m.beyondPorts := by
  unfold Part.goodReport
  try dsimp only
  (repeat' split) <;> (try simp) <;> (try rfl)

@[simp] theorem Part.unreadable_beyondPorts (m : Part) (p : PortNo) (t : Tally) : (m.unreadable p t).beyondPorts = m.beyondPorts := by
  unfold Part.unreadable
  try dsimp only
  (repeat' split) <;> (try simp) <;> (try rfl)

@[simp] theorem Part.takeReport_beyondPorts (m : Part) (p : PortNo) (r : Report) (sinh : Bool) : (m.takeReport p r sinh).beyondPorts = m.beyondPorts := by
  unfold Part.takeReport
  try dsimp only
  (repeat' split) <;> (try simp) <;> (try rfl)

@[simp] theorem Part.character_beyondPorts (m : Part) (p : PortNo) (levels : Levels) (edge sinh : Bool) : (m.character p levels edge sinh).beyondPorts = m.beyondPorts := by
  unfold Part.character
  try dsimp only
  (repeat' split) <;> (try simp) <;> (try rfl)

@[simp] theorem Part.gapPassed_beyondPorts (m : Part) (p : PortNo) : (m.gapPassed p).beyondPorts = m.beyondPorts := by
  unfold Part.gapPassed
  try dsimp only
  (repeat' split) <;> (try simp) <;> (try rfl)

@[simp] theorem Part.gapComplete_beyondPorts (m : Part) (p : PortNo) : (m.gapComplete p).beyondPorts = m.beyondPorts := by
  unfold Part.gapComplete
  try dsimp only
  (repeat' split) <;> (try simp) <;> (try rfl)

@[simp] theorem Part.startEdge_beyondPorts (m : Part) (p : PortNo) : (m.startEdge p).beyondPorts = m.beyondPorts := by
  unfold Part.startEdge
  try dsimp only
  (repeat' split) <;> (try simp) <;> (try rfl)

/-! ### The slot manager -/

@[simp] theorem Part.setPort_beyondSlots (m : Part) (p : PortNo) (x : Port) : (m.setPort p x).beyondSlots = m.beyondSlots := rfl
@[simp] theorem Part.onPort_beyondSlots (m : Part) (p : PortNo) (f : Port → Port) : (m.onPort p f).beyondSlots = m.beyondSlots := rfl
@[simp] theorem Part.onPorts_beyondSlots (m : Part) (f : Port → Port) : (m.onPorts f).beyondSlots = m.beyondSlots := rfl
@[simp] theorem Part.raise_beyondSlots (m : Part) (p : PortNo) (t : Tally) : (m.raise p t).beyondSlots = m.beyondSlots := rfl
@[simp] theorem Part.setSlot_beyondSlots (m : Part) (n : SlotNo) (x : Slot) : (m.setSlot n x).beyondSlots = m.beyondSlots := rfl
@[simp] theorem Part.onSlot_beyondSlots (m : Part) (n : SlotNo) (f : Slot → Slot) : (m.onSlot n f).beyondSlots = m.beyondSlots := rfl
@[simp] theorem Part.setQueue_beyondSlots (m : Part) (p : PortNo) (q : List SlotNo) : (m.setQueue p q).beyondSlots = m.beyondSlots := rfl
@[simp] theorem Part.setCause_beyondSlots (m : Part) (c : Cause) : (m.setCause c).beyondSlots = m.beyondSlots := rfl
@[simp] theorem Part.pushEntry_beyondSlots (m : Part) (e : Entry) : (m.pushEntry e).beyondSlots = m.beyondSlots := rfl
@[simp] theorem Part.tellSlotManager_beyondSlots (m : Part) (k : JobKind) : (m.tellSlotManager k).beyondSlots = m.beyondSlots := rfl
@[simp] theorem Part.tellPost_beyondSlots (m : Part) (k : JobKind) : (m.tellPost k).beyondSlots = m.beyondSlots := rfl
@[simp] theorem Part.with_tree_beyondSlots (m : Part) (v : List TreeTask) : ({ m with tree := v } : Part).beyondSlots = m.beyondSlots := rfl
@[simp] theorem Part.with_jobs_beyondSlots (m : Part) (v : List Job) : ({ m with jobs := v } : Part).beyondSlots = m.beyondSlots := rfl

@[simp] theorem Part.placeTriggered_beyondSlots (m : Part) (n : SlotNo) : (m.placeTriggered n).beyondSlots = m.beyondSlots := by
  unfold Part.placeTriggered
  try dsimp only
  (repeat' split) <;> (try simp) <;> (try rfl)

@[simp] theorem Part.unqueue_beyondSlots (m : Part) (n : SlotNo) : (m.unqueue n).beyondSlots = m.beyondSlots := by
  unfold Part.unqueue
  try dsimp only
  (repeat' split) <;> (try simp) <;> (try rfl)

@[simp] theorem Part.trigger_beyondSlots (m : Part) (n : SlotNo) : (m.trigger n).beyondSlots = m.beyondSlots := by
  unfold Part.trigger
  try dsimp only
  (repeat' split) <;> (try simp) <;> (try rfl)

@[simp] theorem Part.takeExpiry_beyondSlots (m : Part) (n : SlotNo) : (m.takeExpiry n).beyondSlots = m.beyondSlots := by
  unfold Part.takeExpiry
  try dsimp only
  (repeat' split) <;> (try simp) <;> (try rfl)

@[simp] theorem Part.requeue_beyondSlots (m : Part) (n : SlotNo) : (m.requeue n).beyondSlots = m.beyondSlots := by
  unfold Part.requeue
  try dsimp only
  (repeat' split) <;> (try simp) <;> (try rfl)

@[simp] theorem Part.notifySlot_beyondSlots (m : Part) (notify : Bool) : (m.notifySlot notify).beyondSlots = m.beyondSlots := by
  unfold Part.notifySlot
  try dsimp only
  (repeat' split) <;> (try simp) <;> (try rfl)

@[simp] theorem Part.complete_beyondSlots (m : Part) (base : Word) (n : SlotNo) (c : Completion) : (m.complete base n c).beyondSlots = m.beyondSlots := by
  unfold Part.complete
  try dsimp only
  (repeat' split) <;> (try simp) <;> (try rfl)

@[simp] theorem Part.markFollowers_beyondSlots (m : Part) (n : SlotNo) : (m.markFollowers n).beyondSlots = m.beyondSlots := by
  have fold : ∀ (l : List SlotNo) (m : Part),
      (l.foldl (fun m k => m.onSlot k Slot.marked) m).beyondSlots = m.beyondSlots := by
    intro l
    induction l with
    | nil => intro m; rfl
    | cons a l ih => intro m; simp [ih]
  exact fold _ _

@[simp] theorem Part.deliver_beyondSlots (m : Part) (n : SlotNo) (ok left : Bool) : (m.deliver n ok left).beyondSlots = m.beyondSlots := by
  have fold : ∀ (l : List SlotNo) (m : Part), (l.foldl Part.trigger m).beyondSlots = m.beyondSlots := by
    intro l
    induction l with
    | nil => intro m; rfl
    | cons a l ih => intro m; simp [ih]
  unfold Part.deliver
  cases ok <;> cases left <;> simp [fold]

@[simp] theorem Part.completeAndDeliver_beyondSlots (m : Part) (base : Word) (n : SlotNo) (c : Completion) : (m.completeAndDeliver base n c).beyondSlots = m.beyondSlots := by
  unfold Part.completeAndDeliver
  try dsimp only
  (repeat' split) <;> (try simp) <;> (try rfl)

@[simp] theorem Part.queuePostWord_beyondSlots (m : Part) (base : Word) (n : SlotNo) : (m.queuePostWord base n).beyondSlots = m.beyondSlots := by
  unfold Part.queuePostWord
  try dsimp only
  (repeat' split) <;> (try simp) <;> (try rfl)

@[simp] theorem Part.doTask_beyondSlots (m : Part) (base : Word) (t : TreeTask) : (m.doTask base t).beyondSlots = m.beyondSlots := by
  unfold Part.doTask
  try dsimp only
  (repeat' split) <;> (try simp) <;> (try rfl)

@[simp] theorem Part.takeEnding_beyondSlots (m : Part) (base : Word) (p : PortNo) : (m.takeEnding base p).beyondSlots = m.beyondSlots := by
  unfold Part.takeEnding
  try dsimp only
  (repeat' split) <;> (try simp) <;> (try rfl)

@[simp] theorem Part.queueRejection_beyondSlots (m : Part) (base : Word) (n : SlotNo) (notify : Bool) : (m.queueRejection base n notify).beyondSlots = m.beyondSlots := by
  unfold Part.queueRejection
  try dsimp only
  (repeat' split) <;> (try simp) <;> (try rfl)

@[simp] theorem Part.doJob_beyondSlots (m : Part) (base : Word) (k : JobKind) : (m.doJob base k).beyondSlots = m.beyondSlots := by
  unfold Part.doJob
  try dsimp only
  (repeat' split) <;> (try simp) <;> (try rfl)

@[simp] theorem Part.periodExpired_beyondSlots (m : Part) (n : SlotNo) : (m.periodExpired n).beyondSlots = m.beyondSlots := by
  unfold Part.periodExpired
  try dsimp only
  (repeat' split) <;> (try simp) <;> (try rfl)

@[simp] theorem Part.takeOrder_beyondSlots (m : Part) (n : SlotNo) (o : Order) : (m.takeOrder n o).beyondSlots = m.beyondSlots := by
  unfold Part.takeOrder
  try dsimp only
  (repeat' split) <;> (try simp) <;> (try rfl)

@[simp] theorem Part.answerPost_beyondSlots (m : Part) (n : SlotNo) (o : PostOutcome) : (m.answerPost n o).beyondSlots = m.beyondSlots := by
  unfold Part.answerPost
  try dsimp only
  (repeat' split) <;> (try simp) <;> (try rfl)

@[simp] theorem Part.armPost_beyondSlots (m : Part) (n : SlotNo) (o : Order) : (m.armPost n o).beyondSlots = m.beyondSlots := by
  unfold Part.armPost
  try dsimp only
  (repeat' split) <;> (try simp) <;> (try rfl)

@[simp] theorem Part.tellLeft_beyondSlots (m : Part) (n : SlotNo) : (m.tellLeft n).beyondSlots = m.beyondSlots := by
  unfold Part.tellLeft
  try dsimp only
  (repeat' split) <;> (try simp) <;> (try rfl)

@[simp] theorem Part.withdrawPost_beyondSlots (m : Part) (n : SlotNo) : (m.withdrawPost n).beyondSlots = m.beyondSlots := by
  unfold Part.withdrawPost
  try dsimp only
  (repeat' split) <;> (try simp) <;> (try rfl)

/-! ### The claim unit -/

@[simp] theorem Part.setPort_beyondClaims (m : Part) (p : PortNo) (x : Port) : (m.setPort p x).beyondClaims = m.beyondClaims := rfl
@[simp] theorem Part.onPort_beyondClaims (m : Part) (p : PortNo) (f : Port → Port) : (m.onPort p f).beyondClaims = m.beyondClaims := rfl
@[simp] theorem Part.onPorts_beyondClaims (m : Part) (f : Port → Port) : (m.onPorts f).beyondClaims = m.beyondClaims := rfl
@[simp] theorem Part.raise_beyondClaims (m : Part) (p : PortNo) (t : Tally) : (m.raise p t).beyondClaims = m.beyondClaims := rfl
@[simp] theorem Part.setTable_beyondClaims (m : Part) (t : TableNo) (x : TableRecord) : (m.setTable t x).beyondClaims = m.beyondClaims := rfl
@[simp] theorem Part.setClaimList_beyondClaims (m : Part) (t : TableNo) (l : List Claim) : (m.setClaimList t l).beyondClaims = m.beyondClaims := rfl
@[simp] theorem Part.setCause_beyondClaims (m : Part) (c : Cause) : (m.setCause c).beyondClaims = m.beyondClaims := rfl
@[simp] theorem Part.pushEntry_beyondClaims (m : Part) (e : Entry) : (m.pushEntry e).beyondClaims = m.beyondClaims := rfl
@[simp] theorem Part.tellClaimUnit_beyondClaims (m : Part) (i : ClaimInput) : (m.tellClaimUnit i).beyondClaims = m.beyondClaims := rfl
@[simp] theorem Part.askClaim_beyondClaims (m : Part) (p : PortNo) (t : TableNo) (mode : ClaimMode) (first count : Nat) : (m.askClaim p t mode first count).beyondClaims = m.beyondClaims := rfl
@[simp] theorem Part.releaseClaim_beyondClaims (m : Part) (p : PortNo) : (m.releaseClaim p).beyondClaims = m.beyondClaims := rfl
@[simp] theorem Part.tellSlotManager_beyondClaims (m : Part) (k : JobKind) : (m.tellSlotManager k).beyondClaims = m.beyondClaims := rfl
@[simp] theorem Part.with_inbox_beyondClaims (m : Part) (v : List ClaimInput) : ({ m with inbox := v } : Part).beyondClaims = m.beyondClaims := rfl

@[simp] theorem Part.fillRunFault_beyondClaims (m : Part) (p : PortNo) (kind : FaultKind) (reason : Byte) : (m.fillRunFault p kind reason).beyondClaims = m.beyondClaims := by
  unfold Part.fillRunFault
  try dsimp only
  (repeat' split) <;> (try simp) <;> (try rfl)

@[simp] theorem Part.endRun_beyondClaims (m : Part) (p : PortNo) (outcome reason : Byte) : (m.endRun p outcome reason).beyondClaims = m.beyondClaims := by
  unfold Part.endRun
  try dsimp only
  (repeat' split) <;> (try simp) <;> (try rfl)

@[simp] theorem Part.sendBid_beyondClaims (m : Part) (p : PortNo) (tag : Byte) : (m.sendBid p tag).beyondClaims = m.beyondClaims := by
  unfold Part.sendBid
  try dsimp only
  (repeat' split) <;> (try simp) <;> (try rfl)

@[simp] theorem Part.enterSending_beyondClaims (m : Part) (p : PortNo) : (m.enterSending p).beyondClaims = m.beyondClaims := by
  unfold Part.enterSending
  try dsimp only
  (repeat' split) <;> (try simp) <;> (try rfl)

@[simp] theorem Part.startAttempt_beyondClaims (m : Part) (p : PortNo) : (m.startAttempt p).beyondClaims = m.beyondClaims := by
  unfold Part.startAttempt
  try dsimp only
  (repeat' split) <;> (try simp) <;> (try rfl)

@[simp] theorem Part.attemptFailed_beyondClaims (m : Part) (p : PortNo) (f : RunFailure) : (m.attemptFailed p f).beyondClaims = m.beyondClaims := by
  unfold Part.attemptFailed
  try dsimp only
  (repeat' split) <;> (try simp) <;> (try rfl)

@[simp] theorem Part.formRequest_beyondClaims (m : Part) (p : PortNo) (o : Order) (data : List Byte) : (m.formRequest p o data).beyondClaims = m.beyondClaims := by
  unfold Part.formRequest
  try dsimp only
  (repeat' split) <;> (try simp) <;> (try rfl)

@[simp] theorem Part.enterTurnaround_beyondClaims (m : Part) (p : PortNo) : (m.enterTurnaround p).beyondClaims = m.beyondClaims := by
  unfold Part.enterTurnaround
  try dsimp only
  (repeat' split) <;> (try simp) <;> (try rfl)

@[simp] theorem Part.endBroadcast_beyondClaims (m : Part) (p : PortNo) : (m.endBroadcast p).beyondClaims = m.beyondClaims := by
  unfold Part.endBroadcast
  try dsimp only
  (repeat' split) <;> (try simp) <;> (try rfl)

@[simp] theorem Part.reply_beyondClaims (m : Part) (p : PortNo) (body : List Byte) : (m.reply p body).beyondClaims = m.beyondClaims := by
  unfold Part.reply
  try dsimp only
  (repeat' split) <;> (try simp) <;> (try rfl)

@[simp] theorem Part.refuse_beyondClaims (m : Part) (p : PortNo) (reason : Byte) : (m.refuse p reason).beyondClaims = m.beyondClaims := by
  unfold Part.refuse
  try dsimp only
  (repeat' split) <;> (try simp) <;> (try rfl)

@[simp] theorem Part.fillServiceFault_beyondClaims (m : Part) (p : PortNo) (kind : FaultKind) (reason : Byte) : (m.fillServiceFault p kind reason).beyondClaims = m.beyondClaims := by
  unfold Part.fillServiceFault
  try dsimp only
  (repeat' split) <;> (try simp) <;> (try rfl)

@[simp] theorem Part.startSpanWrite_beyondClaims (m : Part) (p : PortNo) : (m.startSpanWrite p).beyondClaims = m.beyondClaims := by
  unfold Part.startSpanWrite
  try dsimp only
  (repeat' split) <;> (try simp) <;> (try rfl)

@[simp] theorem Part.lastEdgeOrWrite_beyondClaims (m : Part) (p : PortNo) : (m.lastEdgeOrWrite p).beyondClaims = m.beyondClaims := by
  unfold Part.lastEdgeOrWrite
  try dsimp only
  (repeat' split) <;> (try simp) <;> (try rfl)

@[simp] theorem Part.startWrites_beyondClaims (m : Part) (p : PortNo) : (m.startWrites p).beyondClaims = m.beyondClaims := by
  unfold Part.startWrites
  try dsimp only
  (repeat' split) <;> (try simp) <;> (try rfl)

@[simp] theorem Part.claimGranted_beyondClaims (m : Part) (p : PortNo) : (m.claimGranted p).beyondClaims = m.beyondClaims := by
  unfold Part.claimGranted
  try dsimp only
  (repeat' split) <;> (try simp) <;> (try rfl)

@[simp] theorem Part.claimTimedOut_beyondClaims (m : Part) (p : PortNo) : (m.claimTimedOut p).beyondClaims = m.beyondClaims := by
  unfold Part.claimTimedOut
  try dsimp only
  (repeat' split) <;> (try simp) <;> (try rfl)

@[simp] theorem Part.tellGranted_beyondClaims (m : Part) (t : TableNo) (who : Claimant) : (m.tellGranted t who).beyondClaims = m.beyondClaims := by
  unfold Part.tellGranted
  try dsimp only
  (repeat' split) <;> (try simp) <;> (try rfl)

@[simp] theorem Part.tellAllGranted_beyondClaims (m : Part) (t : TableNo) (l : List Claimant) : (m.tellAllGranted t l).beyondClaims = m.beyondClaims := by
  unfold Part.tellAllGranted
  induction l generalizing m with
  | nil => rfl
  | cons a l ih => simp [ih]

@[simp] theorem Part.claimArrives_beyondClaims (m : Part) (t : TableNo) (c : Claim) : (m.claimArrives t c).beyondClaims = m.beyondClaims := by
  unfold Part.claimArrives
  try dsimp only
  (repeat' split) <;> (try simp) <;> (try rfl)

@[simp] theorem Part.claimLeaves_beyondClaims (m : Part) (t : TableNo) (who : Claimant) : (m.claimLeaves t who).beyondClaims = m.beyondClaims := by
  unfold Part.claimLeaves
  try dsimp only
  (repeat' split) <;> (try simp) <;> (try rfl)

@[simp] theorem Part.queueTableRecord_beyondClaims (m : Part) (base : Word) (t : TableNo) : (m.queueTableRecord base t).beyondClaims = m.beyondClaims := by
  unfold Part.queueTableRecord
  try dsimp only
  (repeat' split) <;> (try simp) <;> (try rfl)

@[simp] theorem Part.portLeaves_beyondClaims (m : Part) (base : Word) (p : PortNo) : (m.portLeaves base p).beyondClaims = m.beyondClaims := by
  unfold Part.portLeaves
  try dsimp only
  (repeat' split) <;> (try simp) <;> (try rfl)

@[simp] theorem Part.claimExpires_beyondClaims (m : Part) (base : Word) (p : PortNo) : (m.claimExpires base p).beyondClaims = m.beyondClaims := by
  unfold Part.claimExpires
  try dsimp only
  (repeat' split) <;> (try simp) <;> (try rfl)

@[simp] theorem Part.recordStore_beyondClaims (m : Part) (base : Word) (p : PortNo) : (m.recordStore base p).beyondClaims = m.beyondClaims := by
  unfold Part.recordStore
  try dsimp only
  (repeat' split) <;> (try simp) <;> (try rfl)

@[simp] theorem Part.storeApplied_beyondClaims (m : Part) (base : Word) (p : PortNo) : (m.storeApplied base p).beyondClaims = m.beyondClaims := by
  unfold Part.storeApplied
  try dsimp only
  (repeat' split) <;> simp only [Part.reply_beyondClaims, Part.with_inbox_beyondClaims, Part.recordStore_beyondClaims]

@[simp] theorem Part.takeHoldPost_beyondClaims (m : Part) (base : Word) (t : TableNo) (wanted : Byte) (post : Half) : (m.takeHoldPost base t wanted post).beyondClaims = m.beyondClaims := by
  unfold Part.takeHoldPost
  try dsimp only
  (repeat' split) <;> (try simp) <;> (try rfl)

@[simp] theorem Part.doInput_beyondClaims (m : Part) (base : Word) (i : ClaimInput) : (m.doInput base i).beyondClaims = m.beyondClaims := by
  unfold Part.doInput
  try dsimp only
  (repeat' split) <;> (try simp) <;> (try rfl)

@[simp] theorem Part.claimLimitPassed_beyondClaims (m : Part) (p : PortNo) : (m.claimLimitPassed p).beyondClaims = m.beyondClaims := by
  unfold Part.claimLimitPassed
  try dsimp only
  (repeat' split) <;> (try simp) <;> (try rfl)

end Sys2Proof.Machine
end

