-- ==== Sys2Proof/Laws/Memory.lean ====
section
/-! SUPPORT. Memory: every operation keeps the canonical form, and what is read after a write. -/

namespace Sys2Proof.Machine

theorem Memory.wf_cons (c : Host.Cell) (l : List Host.Cell) :
    Memory.wf (c :: l) = true ↔ (∀ d ∈ l.head?, c.1 < d.1) ∧ Memory.wf l = true := by
  cases l with
  | nil => simp [Memory.wf]
  | cons d rest => simp [Memory.wf]

/-- The first cell of a memory written at `a` is at `a` or is the first cell of before. -/
theorem Memory.head_writeByte (mem : List Host.Cell) (a : Nat) (v : Byte) (c : Host.Cell)
    (h : c ∈ (Memory.writeByte mem a v).head?) : c.1 = a ∨ c ∈ mem.head? := by
  cases mem with
  | nil => simp [Memory.writeByte] at h; simp [← h]
  | cons d rest =>
    unfold Memory.writeByte at h
    split at h
    · simp at h; simp [← h]
    · split at h
      · simp at h; simp [← h]
      · simp at h; simp [h]

theorem Memory.wf_writeByte (mem : List Host.Cell) (a : Nat) (v : Byte) (h : Memory.wf mem = true) :
    Memory.wf (Memory.writeByte mem a v) = true := by
  induction mem with
  | nil => rfl
  | cons c rest ih =>
    rw [Memory.wf_cons] at h
    unfold Memory.writeByte
    split
    · rw [Memory.wf_cons]
      exact ⟨by simpa using ‹a < c.1›, by rw [Memory.wf_cons]; exact h⟩
    · split
      · rename_i e
        rw [Memory.wf_cons]
        exact ⟨fun d hd => by have := h.1 d hd; simpa [e] using this, h.2⟩
      · rw [Memory.wf_cons]
        refine ⟨fun d hd => ?_, ih h.2⟩
        rcases Memory.head_writeByte rest a v d hd with e | e
        · omega
        · exact h.1 d e

theorem Memory.wf_writeBytes (mem : List Host.Cell) (a : Nat) (bytes : List Byte) (h : Memory.wf mem = true) :
    Memory.wf (Memory.writeBytes mem a bytes) = true := by
  induction bytes generalizing mem a with
  | nil => exact h
  | cons v rest ih => exact ih _ _ (Memory.wf_writeByte mem a v h)

theorem Memory.wf_writeTaken (mem : List Host.Cell) (event a i : Nat) (bytes : List Byte)
    (h : Memory.wf mem = true) : Memory.wf (Memory.writeTaken mem event a i bytes) = true := by
  induction bytes generalizing mem i with
  | nil => exact h
  | cons v rest ih =>
    unfold Memory.writeTaken
    apply ih
    split
    · exact Memory.wf_writeByte mem _ v h
    · exact h

theorem Memory.read_cons (c : Host.Cell) (l : List Host.Cell) (b : Nat) :
    Memory.read (c :: l) b = if c.1 = b then some c.2 else Memory.read l b := by
  by_cases h : c.1 = b <;> simp [Memory.read, h]

theorem Memory.read_writeByte (mem : List Host.Cell) (a b : Nat) (v : Byte) :
    Memory.read (Memory.writeByte mem a v) b = if b = a then some v else Memory.read mem b := by
  induction mem with
  | nil =>
    rw [Memory.writeByte, Memory.read_cons]
    by_cases h : b = a
    · simp [h]
    · simp [h, show ¬ a = b from fun e => h e.symm]
  | cons c rest ih =>
    unfold Memory.writeByte
    split
    · rw [Memory.read_cons]
      by_cases h : b = a
      · simp [h]
      · simp [h, show ¬ a = b from fun e => h e.symm]
    · split
      · rename_i e
        rw [Memory.read_cons, Memory.read_cons]
        by_cases h : b = a
        · simp [h]
        · have h1 : ¬ a = b := fun e => h e.symm
          have h2 : ¬ c.1 = b := fun e' => h1 (e.trans e')
          simp [h, h1, h2]
      · rename_i h0 h1
        rw [Memory.read_cons, Memory.read_cons, ih]
        by_cases h : c.1 = b
        · have : ¬ b = a := by omega
          simp [h, this]
        · simp [h]

/-- Every address outside a write reads as before. -/
theorem Memory.read_writeBytes_outside (mem : List Host.Cell) (a b : Nat) (bytes : List Byte)
    (h : b < a ∨ a + bytes.length ≤ b) : Memory.read (Memory.writeBytes mem a bytes) b = Memory.read mem b := by
  induction bytes generalizing mem a with
  | nil => rfl
  | cons v rest ih =>
    unfold Memory.writeBytes
    simp only [List.length_cons] at h
    rw [ih _ _ (by omega), Memory.read_writeByte, if_neg (by omega)]

/-- Every address inside a write reads the byte written to it. -/
theorem Memory.read_writeBytes_inside (mem : List Host.Cell) (a i : Nat) (bytes : List Byte)
    (h : i < bytes.length) : Memory.read (Memory.writeBytes mem a bytes) (a + i) = some bytes[i] := by
  induction bytes generalizing mem a i with
  | nil => simp at h
  | cons v rest ih =>
    unfold Memory.writeBytes
    cases i with
    | zero => rw [Memory.read_writeBytes_outside _ _ _ _ (by omega)]; simp [Memory.read_writeByte]
    | succ i =>
      have := ih (Memory.writeByte mem a v) (a + 1) i (by simpa using h)
      simpa [Nat.add_comm, Nat.add_left_comm, Nat.add_assoc] using this

/-- Every address outside an abandoned write reads as before. -/
theorem Memory.read_writeTaken_outside (mem : List Host.Cell) (event a i b : Nat) (bytes : List Byte)
    (h : b < a + i ∨ a + i + bytes.length ≤ b) :
    Memory.read (Memory.writeTaken mem event a i bytes) b = Memory.read mem b := by
  induction bytes generalizing mem i with
  | nil => rfl
  | cons v rest ih =>
    unfold Memory.writeTaken
    simp only [List.length_cons] at h
    rw [ih _ _ (by omega)]
    split
    · rw [Memory.read_writeByte, if_neg (by omega)]
    · rfl

end Sys2Proof.Machine
end

