-- ==== Sys2Proof/Laws/Settle.lean ====
section
/-! SUPPORT. What one event does: the induction over the internal work, the steps it is made of, and the shape of every
command's answer. -/

namespace Sys2Proof.Machine

/-! ### Internal work -/

theorem orElse_eq_some (a b : Option Part) (m : Part) (h : orElse a b = some m) : a = some m ∨ b = some m := by
  cases a with
  | none => exact Or.inr h
  | some x => exact Or.inl h

theorem orElse_eq_none (a b : Option Part) : orElse a b = none ↔ a = none ∧ b = none := by
  cases a <;> simp [orElse]

/-- A property that every piece of internal work keeps is kept by all of it. -/
theorem Part.settle_keeps (base : Word) (P : Part → Prop)
    (step : ∀ m m', m.settleStep base = some m' → P m → P m') (fuel : Nat) (m : Part) (h : P m) :
    P (Part.settle base fuel m) := by
  induction fuel generalizing m with
  | zero => exact h
  | succ n ih =>
    unfold Part.settle
    cases e : m.settleStep base with
    | none => exact h
    | some m1 => exact ih m1 (step m m1 e h)

/-- With no internal work to do, settling changes nothing. -/
theorem Part.settle_of_settled (base : Word) (fuel : Nat) (m : Part) (h : m.settleStep base = none) :
    Part.settle base fuel m = m := by
  cases fuel with
  | zero => rfl
  | succ n => unfold Part.settle; rw [h]

theorem Part.finish_of_settled (base : Word) (m : Part) (h : m.settleStep base = none) :
    Part.finish base m = m.grantBus := by
  unfold Part.finish; rw [Part.settle_of_settled base _ m h]

/-- A property that the internal work and the grant of the bus keep is kept by the end of an event. -/
theorem Part.finish_keeps (base : Word) (P : Part → Prop)
    (step : ∀ m m', m.settleStep base = some m' → P m → P m') (grant : ∀ m : Part, P m → P m.grantBus) (m : Part)
    (h : P m) : P (Part.finish base m) :=
  grant _ (Part.settle_keeps base P step _ m h)

/-- The pieces of internal work in RUNNING and STOPPING. -/
theorem Part.workingStep_cases (m m' : Part) (base : Word) (h : m.workingStep base = some m') :
    m.claimStep base = some m' ∨ m.treeStep base = some m' ∨ (∃ p, m.resumeStep p = some m') ∨
      (∃ p, m.headStep p = some m') ∨ m.jobStep base = some m' ∨ m.sweepStep base = some m' ∨
      m.stopStep base = some m' := by
  unfold Part.workingStep at h
  rcases orElse_eq_some _ _ _ h with h | h
  · exact Or.inl h
  rcases orElse_eq_some _ _ _ h with h | h
  · exact Or.inr (Or.inl h)
  refine Or.inr (Or.inr ?_)
  iterate 4
    rcases orElse_eq_some _ _ _ h with h | h
    · exact Or.inl ⟨_, h⟩
  refine Or.inr ?_
  iterate 4
    rcases orElse_eq_some _ _ _ h with h | h
    · exact Or.inl ⟨_, h⟩
  refine Or.inr ?_
  rcases orElse_eq_some _ _ _ h with h | h
  · exact Or.inl h
  exact Or.inr (orElse_eq_some _ _ _ h)

/-- The pieces of internal work in any other state. -/
theorem Part.quietStep_cases (m m' : Part) (base : Word) (h : m.quietStep base = some m') :
    m.clearStep base = some m' ∨ m.adoptStep base = some m' := orElse_eq_some _ _ _ h

/-! ### The grant of the bus -/

theorem Part.grantBus_fields (m : Part) :
    m.grantBus.engine = m.engine ∧ m.grantBus.setupError = m.setupError ∧ m.grantBus.faultCode = m.faultCode ∧
    m.grantBus.faultAddress = m.faultAddress ∧ m.grantBus.causes = m.causes ∧ m.grantBus.setup = m.setup ∧
    m.grantBus.loader = m.loader ∧ m.grantBus.stopSequence = m.stopSequence ∧
    m.grantBus.clearPending = m.clearPending ∧ m.grantBus.slots = m.slots ∧ m.grantBus.queues = m.queues ∧
    m.grantBus.tree = m.tree ∧ m.grantBus.jobs = m.jobs ∧ m.grantBus.tables = m.tables ∧
    m.grantBus.claims = m.claims ∧ m.grantBus.inbox = m.inbox ∧ m.grantBus.ports = m.ports ∧
    m.grantBus.sweep = m.sweep ∧ m.grantBus.xq = m.xq ∧ m.grantBus.waiters = m.waiters ∧
    m.grantBus.sweepAccess = m.sweepAccess ∧ m.grantBus.eventNo = m.eventNo := by
  unfold Part.grantBus
  (repeat' split) <;> simp

/-! ### The answer of a command -/

/-- An event of the part changes the part alone. -/
theorem State.onPart_fields (s : State) (f : Word → Part → Part) :
    (s.onPart f).window = s.window ∧ (s.onPart f).memory = s.memory ∧ (s.onPart f).pending = s.pending := by
  unfold State.onPart
  split <;> simp

theorem State.onPart_part (s : State) (f : Word → Part → Part) (h : s.window.resetAsserted = false) :
    (s.onPart f).part = Part.finish s.window.base (f s.window.base s.part.tick) := by
  unfold State.onPart
  simp [h]

/-- With RESET_N released, an event ends what its own effect leaves. -/
theorem State.onPart_ends (s : State) (f : Word → Part → Part) (h : s.window.resetAsserted = false) :
    s.onPart f = s.ends (f s.window.base s.part.tick) := by
  unfold State.onPart State.ends
  simp [h]

/-- The same for an event that only a working engine takes. -/
theorem State.onPart_whileWorking (s : State) (f : Word → Part → Part) (h : s.window.resetAsserted = false)
    (working : s.part.engine.working = true) :
    (s.onPart fun base => Part.whileWorking (f base)) = s.ends (f s.window.base s.part.tick) := by
  have w : s.part.tick.engine.working = true := working
  rw [State.onPart_ends s _ h, Part.whileWorking, if_pos w]

end Sys2Proof.Machine
end

