-- ==== Sys2Proof/Laws/Claims.lean ====
section
/-! SUPPORT. What the claim unit's shared operations do, said once: the pass of the grant rule, the claim list after a
claim has left, and what telling the granted claimants leaves alone. -/

namespace Sys2Proof.Machine

/-- Whether a claim is granted decides no conflict. -/
theorem conflict_granted (bits : Bool) (c d : Claim) (g : Bool) :
    conflict bits c { d with granted := g } = conflict bits c d := rfl

/-- The claim `c` at place `i` of the list `l` once the grant rule has passed the list (R54). -/
def Claim.passed (bits : Bool) (l : List Claim) (i : Nat) (c : Claim) : Claim :=
  { c with
    granted := c.granted || ((l.take i).all (fun d => !conflict bits c d) &&
      (l.drop (i + 1)).all fun d => !d.granted || !conflict bits c d) }

/-- The pass of R54 over `rest`, behind claims `orig` that it has already passed and left as `done`. -/
theorem grantPass_spec (bits : Bool) (rest : List Claim) :
    ∀ orig done : List Claim, done.length = orig.length →
      (∀ c : Claim, done.all (fun d => !conflict bits c d) = orig.all (fun d => !conflict bits c d)) →
      (grantPass bits done rest).length = (orig ++ rest).length ∧
      (∀ i, i < done.length → (grantPass bits done rest)[i]? = done[i]?) ∧
      ∀ i c, rest[i]? = some c →
        (grantPass bits done rest)[done.length + i]? = some (c.passed bits (orig ++ rest) (done.length + i)) := by
  induction rest with
  | nil => intro orig done h1 h2; simp [grantPass, h1]
  | cons a rest ih =>
    intro orig done h1 h2
    let b : Claim := { a with granted := a.granted || grantable bits done a rest }
    have pass : grantPass bits done (a :: rest) = grantPass bits (done ++ [b]) rest := by
      rw [grantPass]
      by_cases hh : (a.granted || grantable bits done a rest) = true
      · rw [if_pos hh, ← hh]
      · rw [if_neg hh]
        have no : (a.granted || grantable bits done a rest) = false := by simpa using hh
        have eq : b = a := by
          have : a.granted = false := by revert hh; cases a.granted <;> simp
          simp only [b, no]; cases a; simp_all
        rw [eq]
    obtain ⟨k1, k2, k3⟩ := ih (orig ++ [a]) (done ++ [b]) (by simp [h1])
      (by intro c; simp only [List.all_append, h2 c]; simp [b, conflict_granted])
    simp only [List.length_append, List.length_singleton, List.append_assoc, List.singleton_append] at k1 k2 k3
    rw [pass]
    refine ⟨by simpa using k1, ?_, ?_⟩
    · intro i hi
      rw [k2 i (by omega)]
      simp [List.getElem?_append, hi]
    · intro i c hc
      cases i with
      | zero =>
        simp only [List.getElem?_cons_zero, Option.some.injEq] at hc; subst hc
        rw [Nat.add_zero, k2 _ (by omega)]
        simp [Claim.passed, b, grantable, h1, h2 a]
      | succ i =>
        simp only [List.getElem?_cons_succ] at hc
        have h := k3 i c hc
        rwa [show done.length + 1 + i = done.length + (i + 1) by omega] at h

/-- The claims that remain when a claimant's claim leaves a list, after the grant rule (R54). -/
theorem afterLeave_spec (bits : Bool) (l : List Claim) (who : Claimant) :
    let left := l.filter fun c => c.claimant != who
    (afterLeave bits l who).length = left.length ∧
    ∀ (i : Nat) (c : Claim), left[i]? = some c → (afterLeave bits l who)[i]? = some (c.passed bits left i) := by
  intro left
  obtain ⟨h1, -, h3⟩ := grantPass_spec bits left [] [] rfl (fun _ => rfl)
  exact ⟨by simpa [afterLeave] using h1, fun i c h => by simpa [afterLeave] using h3 i c h⟩

/-- A granted claim starts an access of its port and touches nothing else. -/
theorem Part.claimGranted_starts (m : Part) (p : PortNo) :
    ∃ a s, m.claimGranted p = m.setPort p { m.port p with access := a, memStep := s } := by
  have span : ∃ a s, m.startSpanWrite p = m.setPort p { m.port p with access := a, memStep := s } := ⟨_, _, rfl⟩
  have last : ∃ a s, m.lastEdgeOrWrite p = m.setPort p { m.port p with access := a, memStep := s } := by
    unfold Part.lastEdgeOrWrite
    simp only
    split
    · exact ⟨_, _, rfl⟩
    · exact span
  have writes : ∃ a s, m.startWrites p = m.setPort p { m.port p with access := a, memStep := s } := by
    unfold Part.startWrites
    simp only
    split
    · exact ⟨_, _, rfl⟩
    · exact last
  unfold Part.claimGranted
  simp only
  (repeat' split) <;>
    first
    | exact ⟨_, _, rfl⟩
    | exact writes
    | exact ⟨(m.port p).access, (m.port p).memStep, (Part.setPort_port_self m p).symm⟩

theorem Part.claimGranted_eq (m : Part) (p : PortNo) : m.claimGranted p = m.setPort p ((m.claimGranted p).port p) := by
  obtain ⟨a, s, h⟩ := m.claimGranted_starts p
  rw [h, Part.port_setPort]

/-- What a granted claim does to its port depends on the setup and on the port alone. -/
theorem Part.claimGranted_local (m k : Part) (p : PortNo) (setup : k.setup = m.setup) (same : k.port p = m.port p) :
    (k.claimGranted p).port p = (m.claimGranted p).port p := by
  have entry : ∀ t, k.tableEntry t = m.tableEntry t := fun t => by simp [Part.tableEntry, setup]
  simp only [Part.claimGranted, Part.startWrites, Part.lastEdgeOrWrite, Part.startSpanWrite, Part.workSpan,
    Part.workRange, same, entry]
  (repeat' split) <;> simp_all

/-- A port that has asked for a claim starts its access whatever access it had. -/
theorem Part.claimGranted_over (m : Part) (p : PortNo) (a : Option Access) (s : MemStep)
    (h : (m.port p).activity = .preparing ∨ (m.port p).activity = .depositing ∨ (m.port p).activity = .serving) :
    ((m.setPort p { m.port p with access := a, memStep := s }).claimGranted p).port p = (m.claimGranted p).port p := by
  have entry : ∀ x t, (m.setPort p x).tableEntry t = m.tableEntry t := fun x t => rfl
  simp only [Part.claimGranted, Part.startWrites, Part.lastEdgeOrWrite, Part.startSpanWrite, Part.workSpan,
    Part.workRange, Part.port_setPort, entry, Part.onPort, Part.setPort_setPort, Port.startAccess, Port.heldData]
  (repeat' split) <;> simp_all

/-- A granted claim told twice starts the same access. -/
theorem Part.claimGranted_twice (m : Part) (p : PortNo) :
    ((m.claimGranted p).claimGranted p).port p = (m.claimGranted p).port p := by
  by_cases h : (m.port p).activity = .preparing ∨ (m.port p).activity = .depositing ∨ (m.port p).activity = .serving
  · obtain ⟨a, s, e⟩ := m.claimGranted_starts p
    rw [e, Part.claimGranted_over m p a s h, e]
  · have : m.claimGranted p = m := by
      unfold Part.claimGranted
      cases hh : (m.port p).activity <;> simp_all
    rw [this, this]

/-- What telling the granted claimants of a table does. -/
theorem Part.tellAllGranted_spec (t : TableNo) (l : List Claimant) : ∀ m : Part,
    let n := m.tellAllGranted t l
    (∀ q, (.port q ∈ l → n.port q = (m.claimGranted q).port q) ∧ (.port q ∉ l → n.port q = m.port q)) ∧
    n.table t = (if .hold ∈ l then { m.table t with holdState := .held } else m.table t) ∧
    (∀ u, u ≠ t → n.table u = m.table u) ∧
    n = { m with ports := n.ports, tables := n.tables } := by
  induction l with
  | nil => intro m; simp [Part.tellAllGranted]
  | cons who l ih =>
    intro m
    have step : m.tellAllGranted t (who :: l) = (m.tellGranted t who).tellAllGranted t l := rfl
    rw [step]
    obtain ⟨i1, i2, i3, i4⟩ := ih (m.tellGranted t who)
    cases who with
    | port p =>
      have g : m.tellGranted t (.port p) = m.setPort p ((m.claimGranted p).port p) := Part.claimGranted_eq m p
      rw [g] at i1 i2 i3 i4 ⊢
      refine ⟨?_, ?_, ?_, ?_⟩
      · intro q
        obtain ⟨a, b⟩ := i1 q
        by_cases hq : q = p
        · subst hq
          refine ⟨fun _ => ?_, fun h => absurd (by simp) h⟩
          by_cases hl : Claimant.port q ∈ l
          · rw [a hl, ← Part.claimGranted_eq, Part.claimGranted_twice]
          · rw [b hl]; simp
        · have np : (m.setPort p ((m.claimGranted p).port p)).port q = m.port q :=
            Part.port_setPort_of_ne _ _ _ _ (Ne.symm hq)
          constructor
          · intro h
            have : Claimant.port q ∈ l := by simpa [hq] using h
            rw [a this]; exact Part.claimGranted_local _ _ _ rfl np
          · intro h
            have : Claimant.port q ∉ l := fun x => h (by simp [x])
            rw [b this, np]
      · rw [i2]; simp
      · intro u hu; rw [i3 u hu]; rfl
      · rw [i4]; rfl
    | hold =>
      have g : m.tellGranted t .hold = m.setTable t { m.table t with holdState := .held } := rfl
      rw [g] at i1 i2 i3 i4 ⊢
      refine ⟨?_, ?_, ?_, ?_⟩
      · intro q
        obtain ⟨a, b⟩ := i1 q
        constructor
        · intro h
          rw [a (by simpa using h)]; exact Part.claimGranted_local _ _ _ rfl rfl
        · intro h
          rw [b (by simpa using h)]; rfl
      · rw [i2]; simp
      · intro u hu; rw [i3 u hu]; simp [Part.table_setTable_of_ne, Ne.symm hu]
      · rw [i4]; rfl

/-- The claimants that a leave grants are those that become granted. -/
theorem mem_grantedByLeave (bits : Bool) (l : List Claim) (leaver who : Claimant) :
    who ∈ grantedByLeave bits l leaver ↔
      becomesGranted (l.filter fun c => c.claimant != leaver) (afterLeave bits l leaver) who := by
  simp only [grantedByLeave, newlyGranted, becomesGranted, List.mem_map, List.mem_filter, Bool.and_eq_true,
    Bool.not_eq_true', List.any_eq_false]
  constructor
  · rintro ⟨c, ⟨hc, granted, fresh⟩, rfl⟩
    refine ⟨⟨c, hc, rfl, granted⟩, fun d hd same => ?_⟩
    have := fresh d hd
    simpa [same] using this
  · rintro ⟨⟨c, hc, rfl, granted⟩, fresh⟩
    refine ⟨c, ⟨hc, granted, fun d hd => ?_⟩, rfl⟩
    intro h
    simp only [beq_iff_eq] at h
    simp [fresh d hd h.1] at h

/-- What the leave of a claim does (R54, R55): the grant rule passes the claims that remain, each newly granted port starts
its access, a newly granted hold is HELD, and nothing else changes. -/
theorem Part.claimLeaves_spec (m : Part) (t : TableNo) (who : Claimant) :
    let n := m.claimLeaves t who
    let l := (m.claimList t).filter fun c => c.claimant != who
    grantsByRule (m.tableEntry t).isBits l (n.claimList t) ∧
    (∀ u, u ≠ t → n.claimList u = m.claimList u ∧ n.table u = m.table u) ∧
    (∀ q, (becomesGranted l (n.claimList t) (.port q) → n.port q = (m.claimGranted q).port q) ∧
      (¬becomesGranted l (n.claimList t) (.port q) → n.port q = m.port q)) ∧
    (becomesGranted l (n.claimList t) .hold → n.table t = { m.table t with holdState := .held }) ∧
    (¬becomesGranted l (n.claimList t) .hold → n.table t = m.table t) ∧
    n = { m with ports := n.ports, tables := n.tables, claims := n.claims } := by
  intro n l
  let k := m.setClaimList t (afterLeave (m.tableEntry t).isBits (m.claimList t) who)
  obtain ⟨ports, table, tables, rest⟩ :=
    Part.tellAllGranted_spec t (grantedByLeave (m.tableEntry t).isBits (m.claimList t) who) k
  have claims : ∀ u, n.claimList u = k.claimList u := fun u => by
    have := congrArg (fun x : Part => x.claimList u) rest
    exact this
  have here : n.claimList t = afterLeave (m.tableEntry t).isBits (m.claimList t) who := by
    rw [claims t]
    exact Part.claimList_setClaimList m t _
  have granted : ∀ w, w ∈ grantedByLeave (m.tableEntry t).isBits (m.claimList t) who ↔
      becomesGranted l (n.claimList t) w := fun w => by
    rw [here]
    exact mem_grantedByLeave _ _ _ _
  refine ⟨?_, ?_, ?_, ?_, ?_, ?_⟩
  · rw [here]
    exact afterLeave_spec _ _ _
  · intro u hu
    exact ⟨by rw [claims u]; exact Part.claimList_setClaimList_of_ne m t u _ (Ne.symm hu), tables u hu⟩
  · intro q
    rw [← granted]
    exact ⟨fun h => ((ports q).1 h).trans (Part.claimGranted_local m k q rfl rfl), (ports q).2⟩
  · intro h
    exact table.trans (if_pos ((granted _).2 h))
  · intro h
    exact table.trans (if_neg fun x => h ((granted _).1 x))
  · have same : n.claims = k.claims := by
      have := congrArg Part.claims rest
      exact this
    rw [same]
    exact rest

/-- A claim of the port waits in some table's list. -/
theorem Part.waitLimitRuns_iff (m : Part) (p : PortNo) :
    m.waitLimitRuns p = true ↔ ∃ t, ∃ c ∈ m.claimList t, c.claimant = .port p ∧ c.granted = false := by
  simp only [Part.waitLimitRuns, List.any_eq_true, Bool.and_eq_true, beq_iff_eq, Bool.not_eq_true']
  exact ⟨fun ⟨t, _, h⟩ => ⟨t, h⟩, fun ⟨t, h⟩ => ⟨t, by simp [allTables], h⟩⟩

/-- What the end of a port's transaction at its wait limit does (Table 3-7). -/
theorem Part.claimTimedOut_timesOut (m : Part) (p : PortNo) : m.timesOut (m.claimTimedOut p) p := by
  refine ⟨?_, ?_⟩
  · intro ha y z
    have e : m.claimTimedOut p = (m.fillServiceFault p .claimTimeout reasonBusy).refuse p reasonBusy := by
      unfold Part.claimTimedOut; rw [show (m.port p).activity = .serving from ha]
    refine ⟨?_, ?_, ?_⟩
    · intro hb
      rw [e]
      simp [Part.refuse, Part.fillServiceFault, Part.onPort, Part.raise, Part.endBroadcast,
        show (m.port p).service.broadcast = true from hb, Port.raise, Tallies.raise, y, reasonBusy]
    · intro hb hd
      rw [e]
      simp [Part.refuse, Part.fillServiceFault, Part.onPort, Part.raise, Part.enterTurnaround,
        show (m.port p).service.broadcast = false from hb, show (m.port p).answerDelay = true from hd, Port.raise,
        Tallies.raise, y, z, reasonBusy, isTransient, kindRefusal]
    · intro hb hd
      rw [e]
      simp [Part.refuse, Part.fillServiceFault, Part.onPort, Part.raise, Part.enterTurnaround,
        show (m.port p).service.broadcast = false from hb, show (m.port p).answerDelay = false from hd, Port.raise,
        Tallies.raise, y, z, reasonBusy, isTransient, kindRefusal, Port.startAnswer, Port.startTx, Receiver.hunting]
  · intro w ha hw
    have e : m.claimTimedOut p = (m.fillRunFault p .claimTimeout 0).endRun p outcomeClaimTimeout 0 := by
      unfold Part.claimTimedOut
      rcases ha with h | h <;> rw [show (m.port p).activity = _ from h]
    have hw' : (m.port p).run.work = some w := hw
    rw [e]
    simp [Part.fillRunFault, hw', Part.onPort, Part.endRun, Port.hasRun, Part.tellSlotManager, outcomeClaimTimeout]

/-- The arrival of a port's claim with the claim unit free: granted with its access started, or listed as waiting (R51,
R53). -/
theorem Part.claimStep_arrive (m : Part) (base : Word) (p : PortNo) (t : TableNo) (mode : ClaimMode) (first count : Nat)
    (rest : List ClaimInput) (h : m.inbox = .arrive p t mode first count :: rest) (hw : m.waits .claimUnit = false) :
    m.claimStep base = some (
      let l := m.claimList t
      let m1 : Part := { m with inbox := rest }
      if grantable (m.tableEntry t).isBits l ⟨.port p, mode, first, count, false⟩ [] then
        (m1.setClaimList t (l ++ [⟨.port p, mode, first, count, true⟩])).claimGranted p
      else m1.setClaimList t (l ++ [⟨.port p, mode, first, count, false⟩])) := by
  simp only [Part.claimStep, h, hw, Part.inputQueues, Part.doInput, Part.claimArrives, Part.tellGranted]
  rfl

end Sys2Proof.Machine
end

