-- ==== Sys2Proof/Laws/Line.lean ====
section
/-! SUPPORT. What a character arrival can do, said once: the receiver machine's step and its report, and what a GOOD
report hands to the role of the port; and what the start of a request, a BID, an attempt or a grant leaves. -/

namespace Sys2Proof.Machine

/-! ### Starts -/

theorem Port.reportMayCome_iff (x : Port) (event : Nat) :
    x.reportMayCome event = true ↔ x.lapsed = some event ∧ x.receiver.state = .collect := by
  simp [Port.reportMayCome]

theorem Port.bidHoldoffLeft_iff (x : Port) (event : Nat) :
    x.bidHoldoffLeft event = true ↔ x.holdoff = true ∨ (x.lapsed = some event ∧ x.receiver.state = .collect) := by
  simp [Port.bidHoldoffLeft, Port.reportMayCome_iff]

theorem Port.retryWaitOver_iff (x : Port) (turnaround : Byte) (f : RunFailure) (event : Nat) :
    x.retryWaitOver turnaround f event = true ↔
      turnaround = 0 ∧ ¬(f = .noGrant ∧ x.lapsed = some event ∧ x.receiver.state = .collect) := by
  simp [Port.retryWaitOver, ← Port.reportMayCome_iff, imp_iff_not_or]

theorem Part.enterSending_eq (m : Part) (p : PortNo) :
    m.enterSending p = m.setPort p (m.port p).entersSending := by
  cases h : (m.port p).holdoff <;>
    simp [Part.enterSending, Part.onPort, Port.entersSending, h, Port.startTx, Port.sends, Receiver.hunting]

theorem Part.sendBid_eq (m : Part) (p : PortNo) (bidding : (m.port p).activity = .bidding) :
    m.sendBid p (m.port p).run.tag =
      m.setPort p ((m.port p).entersBidding (m.portSetup p).partnerStation m.eventNo) := by
  by_cases h : (m.port p).bidHoldoffLeft m.eventNo = true
  · simp [Part.sendBid, Part.onPort, Port.entersBidding, h, (Port.bidHoldoffLeft_iff _ _).mp h, kindBid, bidding]
  · simp [Part.sendBid, Part.onPort, Port.entersBidding, h, mt (Port.bidHoldoffLeft_iff _ _).mpr h, Port.startTx,
      Port.sends, Port.bidOut, Receiver.hunting, kindBid, bidding]

/-- The start of an attempt on a port that carries a run. -/
theorem Part.startAttempt_eq (m : Part) (p : PortNo) (run : (m.port p).hasRun = true)
    (role : (m.portSetup p).role = 1 ∨ (m.portSetup p).role = 3) :
    m.startAttempt p = m.setPort p ((m.port p).startsAttempt (m.portSetup p) m.eventNo) := by
  unfold Part.startAttempt
  rw [if_pos run]
  rcases role with role | role
  · rw [PortSetup.roleOf_master _ role]
    simp [Part.enterSending_eq, Part.onPort, Port.startsAttempt, role]
  · rw [PortSetup.roleOf_peer _ role]
    simp only [Part.onPort, Part.setPort_setPort, Part.port_setPort]
    have e := Part.sendBid_eq (m.setPort p
      { m.port p with
        run := { (m.port p).run with started := (m.port p).run.started + 1, lastFailure := none }, memStep := .none
        activity := .bidding, peer := { (m.port p).peer with bidsSpent := 0 } }) p (by simp)
    simp only [Part.port_setPort] at e
    rw [e]
    simp [Port.startsAttempt, role, Port.entersBidding]

/-- The end of an attempt that leaves attempts in RUNNING (R103, R104): the next attempt when RETRY_WAIT is over at once,
RETRY_WAIT in every other case. -/
theorem Part.attemptFailed_retries (m : Part) (p : PortNo) (f : RunFailure) (run : (m.port p).hasRun = true)
    (left : (m.port p).run.started < (m.port p).run.allowed) (running : m.engine = .running)
    (role : (m.portSetup p).role = 1 ∨ (m.portSetup p).role = 3) :
    m.attemptFailed p f = m.setPort p
      (if (m.port p).retryWaitOver (m.portSetup p).turnaround f m.eventNo = true then
        (m.port p).startsAttempt (m.portSetup p) m.eventNo
      else { m.port p with run := { (m.port p).run with lastFailure := some f }, activity := .retryWait }) := by
  unfold Part.attemptFailed
  rw [if_pos ⟨left, running⟩]
  by_cases atOnce : (m.port p).retryWaitOver (m.portSetup p).turnaround f m.eventNo = true
  · rw [if_pos atOnce, if_pos atOnce]
    have e := Part.startAttempt_eq
      (m.setPort p { m.port p with run := { (m.port p).run with lastFailure := some f } }) p
      (by simpa [Port.hasRun] using run) (by simpa using role)
    simp only [Part.onPort]
    rw [e]
    simp [Port.startsAttempt]
  · rw [if_neg atOnce, if_neg atOnce]
    simp [Part.onPort]

/-- The end of an attempt that leaves none, or that falls in STOPPING: the run ends by Table 5-5, and its ending is handed
to the slot manager (R103, R105, R106). -/
theorem Part.attemptFailed_ends (m : Part) (p : PortNo) (f : RunFailure) (run : (m.port p).hasRun = true)
    (last : ¬((m.port p).run.started < (m.port p).run.allowed ∧ m.engine = .running)) :
    m.attemptFailed p f = { m.setPort p { m.port p with
        activity := .idle, memStep := .none
        run := { (m.port p).run with lastFailure := some f, ending := some f.ending } } with
      jobs := m.jobs ++ [⟨.runEnding p, m.eventNo⟩] } := by
  unfold Part.attemptFailed
  rw [if_neg last]
  unfold Part.endRun
  rw [if_pos (by simpa [Port.hasRun] using run)]
  simp [Part.onPort, Part.tellSlotManager]

theorem Part.grant_eq (m : Part) (p : PortNo) (tag : Byte) :
    m.grant p tag = m.setPort p ((m.port p).grants (m.portSetup p) tag) := by
  by_cases h : (m.portSetup p).turnaround = 0
  · simp [Part.grant, Part.onPort, Port.grants, h, Port.startGrant, Port.startTx, Receiver.hunting, kindGrant]
  · simp only [Part.grant, Part.onPort, Port.grants, if_neg h]
    rfl

/-! ### Characters -/

/-- A character that a receiver machine takes: the machine steps, the silence begins unless the next character is under
way, and its report, if it makes one, is taken. -/
theorem Part.character_taken (m : Part) (p : PortNo) (levels : Levels) (edge sinh : Bool)
    (confirmed : startConfirmed levels = true) (active : (m.port p).receiver.state ≠ .inactive)
    (underWay : (m.port p).underWay ≠ 0) (quiet : (m.port p).tx = none) :
    m.character p levels edge sinh =
      let r := (m.port p).receiver.arrive (charValue levels) (m.arrivalStatus p levels edge)
      let m1 := m.setPort p { m.port p with
        underWay := (m.port p).underWay - 1, silence := decide ((m.port p).underWay = 1), receiver := r.1 }
      match r.2 with
      | none => m1
      | some rep => m1.takeReport p rep sinh := by
  have held : (m.port p).drven = false := by simp [Port.drven, quiet]
  unfold Part.character
  rw [if_neg (by simp [confirmed, active, underWay]), if_neg (by simp [held])]
  rfl

/-- A character at a working port that does not transmit. -/
theorem exec_characterArrival_taken (s : State) (p : PortNo) (levels : Levels) (edge sinh : Bool)
    (h : s.takesCharacter p levels) (active : (s.part.port p).receiver.state ≠ .inactive) :
    exec (.characterArrival p levels edge sinh) s = .next (s.ends (
      let r := (s.part.port p).receiver.arrive (charValue levels) (s.part.arrivalStatus p levels edge)
      let m := s.part.tick.setPort p { s.part.port p with
        underWay := (s.part.port p).underWay - 1, silence := decide ((s.part.port p).underWay = 1), receiver := r.1 }
      match r.2 with
      | none => m
      | some rep => m.takeReport p rep sinh)) := by
  obtain ⟨released, working, confirmed, underWay, quiet⟩ := h
  show Host.Outcome.next (s.onPart fun _ => Part.whileWorking fun m => m.character p levels edge sinh)
    = _
  rw [State.onPart_whileWorking s (fun _ m => m.character p levels edge sinh) released working,
    Part.character_taken s.part.tick p levels edge sinh confirmed active underWay quiet]
  rfl

/-- In COLLECT an arrival with an error, and a length byte above 248, spoils the frame. -/
theorem Receiver.arrive_spoiled (r : Receiver) (v : Byte) (st : CharStatus) (collect : r.state = .collect)
    (h : st ≠ .good ∨ (r.buffer.length = 3 ∧ maxBody < v.toNat)) :
    r.arrive v st = ({ Receiver.hunting with state := .discard }, some .spoiled) := by
  unfold Receiver.arrive
  rw [collect]
  by_cases g : st = .good
  · rw [if_pos g]
    unfold Receiver.collectGood
    rw [if_pos (h.resolve_left fun n => n g)]
  · rw [if_neg g]

/-- The last byte of a frame: GOOD when the check bytes equal the check register, BAD_CHECK when they do not. -/
theorem Receiver.arrive_last (r : Receiver) (v : Byte) (n : Nat) (collect : r.state = .collect)
    (length : r.bodyLength = some n) (last : r.buffer.length + 1 = 6 + n) :
    r.arrive v .good = (Receiver.hunting, some
      (if halfAt (r.buffer ++ [v]) (4 + n) = r.check then .good (Frame.ofBuffer (r.buffer ++ [v]) n) else .badCheck)) := by
  have three : ¬r.buffer.length = 3 := by omega
  have covered : ¬r.buffer.length < 4 + n := by omega
  simp [Receiver.arrive, collect, Receiver.collectGood, length, three, covered, last]

/-- The receiver machine that reports a GOOD frame is in HUNT. -/
theorem Receiver.hunting_of_good (r : Receiver) (v : Byte) (f : Frame) (collect : r.state = .collect)
    (good : (r.arrive v .good).2 = some (.good f)) : (r.arrive v .good).1 = Receiver.hunting := by
  unfold Receiver.arrive at good ⊢
  simp only [collect, if_true] at good ⊢
  unfold Receiver.collectGood at good ⊢
  revert good
  simp only
  (repeat' split) <;> simp_all

/-- A character that completes a GOOD frame: the port has reported, and its role takes the frame. -/
theorem Part.character_good (m : Part) (p : PortNo) (levels : Levels) (edge sinh : Bool) (f : Frame)
    (confirmed : startConfirmed levels = true) (underWay : (m.port p).underWay ≠ 0) (quiet : (m.port p).tx = none)
    (status : m.arrivalStatus p levels edge = .good) (collect : (m.port p).receiver.state = .collect)
    (good : ((m.port p).receiver.arrive (charValue levels) .good).2 = some (.good f)) :
    m.character p levels edge sinh =
      let m1 := m.setPort p (m.reported p)
      match (m.portSetup p).roleOf with
      | .off => m1
      | .master => m1.goodAtMaster p f
      | .responder => m1.goodAtResponder p f sinh
      | .peer => m1.goodAtPeer p f sinh := by
  rw [Part.character_taken m p levels edge sinh confirmed (by simp [collect]) underWay quiet]
  simp only [status, good, Part.takeReport, Part.goodReport, Receiver.hunting_of_good _ _ _ collect good]
  have e : ((m.setPort p { m.port p with
      underWay := (m.port p).underWay - 1, silence := decide ((m.port p).underWay = 1),
      receiver := Receiver.hunting }).raise p .framesAccepted).onPort p
        (fun x => { x with holdoff := ((m.portSetup p).turnaround != 0) }) = m.setPort p (m.reported p) := by
    simp [Part.raise, Part.onPort, Port.raise, Tallies.raise, Part.reported, Receiver.hunting]
    simp [bne, BEq.beq]
  simp only [Part.setPort_reads, e]
  all_goals rfl

/-- The same at a working port, as a command. -/
theorem exec_characterArrival_good (s : State) (p : PortNo) (levels : Levels) (edge sinh : Bool) (f : Frame)
    (h : s.completesFrame p levels edge f) :
    exec (.characterArrival p levels edge sinh) s = .next (s.ends (
      let m := s.part.tick.setPort p (s.part.reported p)
      match (s.part.portSetup p).roleOf with
      | .off => m
      | .master => m.goodAtMaster p f
      | .responder => m.goodAtResponder p f sinh
      | .peer => m.goodAtPeer p f sinh)) := by
  obtain ⟨⟨released, working, confirmed, underWay, quiet⟩, status, collect, good⟩ := h
  show Host.Outcome.next (s.onPart fun _ => Part.whileWorking fun m => m.character p levels edge sinh)
    = _
  rw [State.onPart_whileWorking s (fun _ m => m.character p levels edge sinh) released working,
    Part.character_good s.part.tick p levels edge sinh f confirmed underWay quiet status collect good]
  rfl

end Sys2Proof.Machine
end

