-- ==== Sys2Proof/Laws/Slots.lean ====
section
/-! SUPPORT. What the slot manager's own searches do, said once: the first job that queues an entry, the right to room of a
producer, and the walk of the loop check. -/

namespace Sys2Proof.Machine

/-- The first job that queues an entry stands behind the expiries before it, which keep their places. -/
theorem firstQueuing_append (before rest : List Job) (j : Job) (expiries : ∀ e ∈ before, ∃ n, e.kind = .expiry n)
    (queues : j.kind.queues = true) : firstQueuing (before ++ j :: rest) = some (j, before ++ rest) := by
  induction before with
  | nil => simp [firstQueuing, queues]
  | cons e before ih =>
    obtain ⟨n, h⟩ := expiries e (by simp)
    simp [firstQueuing, h, JobKind.queues, ih fun x hx => expiries x (by simp [hx])]

/-- The first expiry behind jobs of which none is one. -/
theorem firstExpiry_append (l : List Job) (n : SlotNo) (since : Nat) (none : firstExpiry l = none) :
    firstExpiry (l ++ [⟨.expiry n, since⟩]) = some (n, l) := by
  induction l with
  | nil => rfl
  | cons j l ih =>
    simp only [firstExpiry, List.cons_append] at none ⊢
    cases kind : j.kind with
    | expiry k => simp [kind] at none
    | runEnding _ | postWord _ | takeWord _ | rejection _ _ =>
      simp only [kind] at none ⊢
      cases tail : firstExpiry l with
      | none => simp [ih tail]
      | some t => simp [tail] at none

/-- With no delivery tree in progress: the first job, or while its entry waits for room the first expiry (Table 2-2
note 2; log 12). -/
theorem Part.jobStep_cons (m : Part) (base : Word) (j : Job) (rest : List Job) (noTree : m.tree = [])
    (jobs : m.jobs = j :: rest) :
    m.jobStep base =
      if !j.kind.queues || m.mayQueue .slotManager then some (({ m with jobs := rest } : Part).doJob base j.kind)
      else match firstExpiry (j :: rest) with
        | some (n, others) => some (({ m with jobs := others } : Part).takeExpiry n)
        | none => m.startWait .slotManager j.since := by
  cases m
  subst noTree jobs
  rfl

/-- An expiry that comes to a slot manager with no job ready and no delivery tree in progress is its next job, also while
an entry waits for room. -/
theorem Part.jobStep_expiry (m : Part) (base : Word) (n : SlotNo) (since : Nat) (noTree : m.tree = [])
    (ready : m.jobStep base = none) :
    ({ m with jobs := m.jobs ++ [⟨.expiry n, since⟩] } : Part).jobStep base = some (m.takeExpiry n) := by
  cases jobs : m.jobs with
  | nil =>
    have same : ({ m with jobs := [] } : Part) = m := by rw [← jobs]
    refine (Part.jobStep_cons { m with jobs := [⟨.expiry n, since⟩] } base ⟨.expiry n, since⟩ [] noTree rfl).trans ?_
    exact congrArg (fun k : Part => some (k.takeExpiry n)) same
  | cons j rest =>
    have same : ({ m with jobs := j :: rest } : Part) = m := by rw [← jobs]
    rw [Part.jobStep_cons m base j rest noTree jobs] at ready
    by_cases goes : (!j.kind.queues || m.mayQueue .slotManager) = true
    · rw [if_pos goes] at ready
      exact absurd ready (Option.some_ne_none _)
    · rw [if_neg goes] at ready
      cases first : firstExpiry (j :: rest) with
      | some t =>
        rw [first] at ready
        exact absurd ready (Option.some_ne_none _)
      | none =>
        have found := firstExpiry_append (j :: rest) n since first
        rw [List.cons_append] at found
        refine (Part.jobStep_cons { m with jobs := j :: (rest ++ [⟨.expiry n, since⟩]) } base j _ noTree rfl).trans
          ((if_neg goes).trans ?_)
        rw [found]
        exact congrArg (fun k : Part => some (k.takeExpiry n)) same

/-- A producer is given room exactly when, for some event, it waits since then and is first in line. -/
theorem Part.givenRoom_iff (m : Part) (who : Producer) :
    m.givenRoom who = true ↔ ∃ since, m.firstInLine who since := by
  simp only [Part.givenRoom, Part.firstInLine, Config.queueDepth, Bool.and_eq_true, decide_eq_true_eq, List.any_eq_true,
    List.all_eq_true, beq_iff_eq]
  constructor
  · rintro ⟨h, ⟨w, since⟩, hw, rfl, hv⟩
    exact ⟨since, of_decide_eq_true h, hw, hv⟩
  · rintro ⟨since, h, hw, hv⟩
    exact ⟨decide_eq_true h, ⟨who, since⟩, hw, rfl, hv⟩

theorem Part.isWaiting_iff (m : Part) (who : Producer) : m.isWaiting who ↔ m.waits who = true := by
  simp [Part.isWaiting, Part.waits]

theorem Part.roomAtOnce_iff (m : Part) : m.roomAtOnce ↔ m.hasRoom = true := by
  simp only [Part.roomAtOnce, Part.hasRoom, Config.queueDepth]
  exact ⟨decide_eq_true, of_decide_eq_true⟩

/-- A producer whose next step asks for the right to room queues its entry, begins to wait or goes on waiting. -/
theorem Part.queuesOrWaits_of_mayQueue (m : Part) (who : Producer) (since : Nat) (next : Option Part) (t : Part)
    (h : next = if m.mayQueue who then some t else m.startWait who since) : m.queuesOrWaits who since next t := by
  simp only [Part.queuesOrWaits, Part.isWaiting_iff, Part.roomAtOnce_iff]
  simp only [Part.mayQueue, Part.startWait] at h
  cases waits : m.waits who <;> cases room : m.hasRoom <;> simp [waits, room] at h <;> simp [h]

/-- Room given to the slot manager goes to its first job that queues an entry, of the kind asked for. -/
theorem Part.giveJobRoom_eq (m : Part) (base : Word) (kind : JobKind → Bool) (before rest : List Job) (j : Job)
    (noTree : m.tree = []) (room : m.givenRoom .slotManager = true) (jobs : m.jobs = before ++ j :: rest)
    (expiries : ∀ e ∈ before, ∃ n, e.kind = .expiry n) (queues : j.kind.queues = true) (asked : kind j.kind = true) :
    m.giveJobRoom base kind =
      (({ m with jobs := before ++ rest } : Part).endWait .slotManager).doJob base j.kind := by
  have first := firstQueuing_append before rest j expiries queues
  rw [← jobs] at first
  unfold Part.giveJobRoom
  rw [noTree, first]
  simp only [room, asked, Bool.and_self, if_true]

/-- The ending of a run that is in progress, taken as a completion (R20, R25). -/
theorem Part.takeEnding_eq (m : Part) (base : Word) (p : PortNo) (w : Work) (e : RunEnding)
    (work : (m.port p).run.work = some w) (ending : (m.port p).run.ending = some e) :
    m.takeEnding base p =
      let m1 := m.setPort p { m.port p with run := Run.initial }
      if m.engine = .running then m1.completeAndDeliver base w.slot ((m.port p).run.completion e)
      else m1.complete base w.slot ((m.port p).run.completion e) := by
  unfold Part.takeEnding
  rw [work, ending]
  rfl

/-- The walk of the loop check reaches the armed slot exactly when some walk along the cached orders of part-owned slots
does, in fewer steps than the fuel (R11). -/
theorem loopFrom_iff (m : Part) (n : SlotNo) (fuel : Nat) (k : SlotNo) :
    loopFrom m n fuel k = true ↔ ∃ (walk : Nat → SlotNo) (j : Nat), j < fuel ∧ walk 0 = k ∧ walk j = n ∧
      ∀ i, i < j → (m.slot (walk i)).state.partOwned = true ∧ (m.slot (walk i)).order.follows ≠ 0xFF ∧
        walk (i + 1) = Fin.ofNat 16 (m.slot (walk i)).order.follows.toNat := by
  induction fuel generalizing k with
  | zero => simp [loopFrom]
  | succ fuel ih =>
    by_cases here : k = n
    · simp only [loopFrom, here, if_true, true_iff]
      exact ⟨fun _ => n, 0, by omega, rfl, rfl, by omega⟩
    · rw [loopFrom, if_neg here]
      by_cases goes : ((m.slot k).state.partOwned && (m.slot k).order.isFollower) = true
      · rw [if_pos goes, ih]
        rw [Bool.and_eq_true] at goes
        have follows : (m.slot k).order.follows ≠ 0xFF := by simpa [Order.isFollower] using goes.2
        constructor
        · rintro ⟨walk, j, hj, h0, hn, hw⟩
          refine ⟨fun i => match i with | 0 => k | i + 1 => walk i, j + 1, by omega, rfl, hn, ?_⟩
          intro i hi
          cases i with
          | zero => exact ⟨goes.1, follows, h0⟩
          | succ i => exact hw i (by omega)
        · rintro ⟨walk, j, hj, h0, hn, hw⟩
          cases j with
          | zero => exact absurd (h0.symm.trans hn) here
          | succ j =>
            refine ⟨fun i => walk (i + 1), j, by omega, ?_, hn, fun i hi => hw (i + 1) (by omega)⟩
            rw [← h0]; exact (hw 0 (by omega)).2.2
      · rw [if_neg goes]
        simp only [Bool.false_eq_true, false_iff]
        rintro ⟨walk, j, hj, h0, hn, hw⟩
        cases j with
        | zero => exact here (h0.symm.trans hn)
        | succ j =>
          have h := hw 0 (by omega)
          rw [h0] at h
          have follows : ((m.slot k).order.follows != 0xFF) = true := bne_iff_ne.2 h.2.1
          exact goes (by rw [h.1, Order.isFollower, follows]; rfl)

end Sys2Proof.Machine
end

