-- ==== Sys2Proof/Laws/Ready.lean ====
section
/-! SUPPORT. Which internal work is ready: the pieces one by one, and that none of them becomes ready by the count of events,
nor by a job that comes to the slot manager behind a delivery tree. -/

namespace Sys2Proof.Machine

theorem Part.startWait_eq_none (m : Part) (who : Producer) (since : Nat) :
    m.startWait who since = none ↔ m.waits who = true := by
  unfold Part.startWait
  split <;> simp_all

/-- In RUNNING and STOPPING no internal work is ready exactly when no piece of `workingStep` is. -/
theorem Part.settled_working_iff (m : Part) (base : Word) (working : m.engine.working = true) :
    m.settled base ↔
      m.claimStep base = none ∧ m.treeStep base = none ∧ (∀ p, m.resumeStep p = none) ∧ (∀ p, m.headStep p = none) ∧
      m.jobStep base = none ∧ m.sweepStep base = none ∧ m.stopStep base = none := by
  have ports (f : PortNo → Option Part) : (∀ p, f p = none) ↔ f 0 = none ∧ f 1 = none ∧ f 2 = none ∧ f 3 = none := by
    constructor
    · exact fun h => ⟨h 0, h 1, h 2, h 3⟩
    · rintro ⟨h0, h1, h2, h3⟩ p
      match p with
      | 0 => exact h0
      | 1 => exact h1
      | 2 => exact h2
      | 3 => exact h3
  simp only [Part.settled, Part.settleStep, working, if_true, Part.workingStep, orElse_eq_none, ports, and_assoc]

/-! ### Pieces that neither the jobs nor the count of events make ready -/

/-- The part at another event, with other jobs. -/
def Part.withJobs (m : Part) (event : Nat) (jobs : List Job) : Part := { m with eventNo := event, jobs := jobs }

theorem Part.claimStep_withJobs (m : Part) (base : Word) (event : Nat) (jobs : List Job)
    (h : m.claimStep base = none) : (m.withJobs event jobs).claimStep base = none := by
  have inbox : (m.withJobs event jobs).inbox = m.inbox := rfl
  have waits : (m.withJobs event jobs).waits .claimUnit = m.waits .claimUnit := rfl
  unfold Part.claimStep at h ⊢
  rw [inbox]
  cases input : m.inbox with
  | nil => rfl
  | cons i rest =>
    by_cases waiting : m.waits .claimUnit = true
    · exact if_pos (waits.trans waiting)
    · simp only [input, waiting, Bool.false_eq_true, if_false, Part.startWait] at h
      split at h <;> cases h

theorem Part.treeStep_withJobs (m : Part) (base : Word) (event : Nat) (jobs : List Job)
    (h : m.treeStep base = none) : (m.withJobs event jobs).treeStep base = none := by
  have tree : (m.withJobs event jobs).tree = m.tree := rfl
  unfold Part.treeStep at h ⊢
  rw [tree]
  cases task : m.tree with
  | nil => rfl
  | cons t rest =>
    rw [task] at h
    have room : ((m.withJobs event jobs).taskQueues t && !(m.withJobs event jobs).mayQueue .slotManager) =
      (m.taskQueues t && !m.mayQueue .slotManager) := by cases t <;> rfl
    simp only [room] at h ⊢
    by_cases refused : (m.taskQueues t && !m.mayQueue .slotManager) = true
    · rw [if_pos refused, Part.startWait_eq_none] at h ⊢
      exact h
    · rw [if_neg refused] at h
      cases h

theorem Part.resumeStep_withJobs (m : Part) (event : Nat) (jobs : List Job) (p : PortNo)
    (h : m.resumeStep p = none) : (m.withJobs event jobs).resumeStep p = none := by
  unfold Part.resumeStep at h ⊢
  by_cases resumes : (m.port p).hasRun = true ∧ (m.port p).run.suspended = true ∧ (m.port p).activity = .idle
  · rw [if_pos resumes] at h
    cases h
  · exact if_neg resumes

theorem Part.headStep_withJobs (m : Part) (event : Nat) (jobs : List Job) (p : PortNo)
    (h : m.headStep p = none) : (m.withJobs event jobs).headStep p = none := by
  have queue : (m.withJobs event jobs).queue p = m.queue p := rfl
  unfold Part.headStep at h ⊢
  rw [queue]
  cases head : m.queue p with
  | nil => rfl
  | cons n rest =>
    rw [head] at h
    by_cases free : m.engine = .running ∧ m.portFree p = true
    · exact absurd ((if_pos free).symm.trans h) (Option.some_ne_none _)
    · exact if_neg free

/-! ### Nothing becomes ready -/

/-- The slot manager's jobs and the rest of the part do not become ready at another event; with a delivery tree in progress
not by other jobs either. -/
theorem Part.jobStep_withJobs (m : Part) (base : Word) (event : Nat) (jobs : List Job)
    (same : jobs = m.jobs ∨ m.tree ≠ []) (h : m.jobStep base = none) :
    (m.withJobs event jobs).jobStep base = none := by
  cases tree : m.tree with
  | cons t rest =>
    have tree' : (m.withJobs event jobs).tree = t :: rest := tree
    unfold Part.jobStep
    rw [tree']
  | nil =>
    obtain rfl : jobs = m.jobs := same.resolve_right (absurd tree)
    cases list : m.jobs with
    | nil => simp [Part.jobStep, Part.withJobs, tree]
    | cons j rest =>
      rw [Part.jobStep_cons m base j rest tree list] at h
      rw [Part.jobStep_cons (m.withJobs event (j :: rest)) base j rest tree rfl]
      have room : (!j.kind.queues || (m.withJobs event (j :: rest)).mayQueue .slotManager) =
        (!j.kind.queues || m.mayQueue .slotManager) := rfl
      rw [room]
      by_cases goes : (!j.kind.queues || m.mayQueue .slotManager) = true
      · rw [if_pos goes] at h
        cases h
      · rw [if_neg goes] at h ⊢
        cases first : firstExpiry (j :: rest) with
        | some x =>
          rw [first] at h
          cases h
        | none =>
          rw [first] at h
          exact (Part.startWait_eq_none _ _ _).2 ((Part.startWait_eq_none m .slotManager j.since).1 h)

theorem Part.sweepStep_withJobs (m : Part) (base : Word) (event : Nat) (jobs : List Job)
    (same : jobs = m.jobs ∨ m.tree ≠ []) (h : m.sweepStep base = none) :
    (m.withJobs event jobs).sweepStep base = none := by
  have phase : (m.withJobs event jobs).sweep.phase = m.sweep.phase := rfl
  have tree : (m.withJobs event jobs).tree = m.tree := rfl
  have given : (m.withJobs event jobs).jobs = jobs := rfl
  have inbox : (m.withJobs event jobs).inbox = m.inbox := rfl
  have room : (m.withJobs event jobs).mayQueue .sweepUnit = m.mayQueue .sweepUnit := rfl
  have waits : (m.withJobs event jobs).waits .sweepUnit = m.waits .sweepUnit := rfl
  unfold Part.sweepStep at h ⊢
  rw [phase, tree, given, inbox, room]
  revert h
  rcases same with rfl | busy
  · cases at_ : m.sweep.phase <;> dsimp only <;> (try split) <;>
      simp [Part.startWait_eq_none, waits, Part.sweepEntry, at_]
  · have held : m.tree.isEmpty = false := by simpa using busy
    cases at_ : m.sweep.phase <;> dsimp only <;> (try split) <;>
      simp_all [Part.startWait_eq_none, Part.sweepEntry]

theorem Part.stopAdvance_withJobs (m : Part) (event : Nat) (jobs : List Job) (h : m.stopAdvance = none) :
    (m.withJobs event jobs).stopAdvance = none := by
  have stage : (m.withJobs event jobs).stopSequence = m.stopSequence := rfl
  have idle : (m.withJobs event jobs).workInFlight = m.workInFlight := rfl
  have sweep : (m.withJobs event jobs).sweep = m.sweep := rfl
  have holds (t : TableNo) : (m.withJobs event jobs).holdClaimed t = m.holdClaimed t := rfl
  have slots (n : SlotNo) : (m.withJobs event jobs).slot n = m.slot n := rfl
  revert h
  unfold Part.stopAdvance
  simp only [stage, idle, sweep, holds, slots]
  (repeat' split) <;> simp

theorem Part.stopEntry_withJobs (m : Part) (base : Word) (event : Nat) (jobs : List Job)
    (same : jobs = m.jobs ∨ m.tree ≠ []) (h : m.stopEntry base = none) :
    (m.withJobs event jobs).stopEntry base = none := by
  have stage : (m.withJobs event jobs).stopSequence = m.stopSequence := rfl
  have holds (t : TableNo) : (m.withJobs event jobs).holdClaimed t = m.holdClaimed t := rfl
  have slots (n : SlotNo) : (m.withJobs event jobs).slot n = m.slot n := rfl
  have idle : (m.withJobs event jobs).blocksIdle = true → m.blocksIdle = true := by
    rcases same with rfl | busy
    · exact id
    · intro free
      simp only [Part.blocksIdle, Bool.and_eq_true, List.isEmpty_iff] at free
      exact absurd free.1.2 busy
  revert h
  unfold Part.stopEntry
  simp only [stage, holds, slots]
  (repeat' split) <;> simp_all

theorem Part.stopStep_withJobs (m : Part) (base : Word) (event : Nat) (jobs : List Job)
    (same : jobs = m.jobs ∨ m.tree ≠ []) (h : m.stopStep base = none) :
    (m.withJobs event jobs).stopStep base = none := by
  have engine : (m.withJobs event jobs).engine = m.engine := rfl
  have room : (m.withJobs event jobs).mayQueue .engineControl = m.mayQueue .engineControl := rfl
  unfold Part.stopStep at h ⊢
  rw [engine, room]
  by_cases stopping : m.engine = .stopping
  · rw [if_pos stopping] at h ⊢
    cases advance : m.stopAdvance with
    | some x =>
      rw [advance] at h
      cases h
    | none =>
      rw [advance] at h
      rw [Part.stopAdvance_withJobs m event jobs advance]
      dsimp only at h ⊢
      cases entry : m.stopEntry base with
      | none => rw [Part.stopEntry_withJobs m base event jobs same entry]
      | some x =>
        rw [entry] at h
        cases later : (m.withJobs event jobs).stopEntry base with
        | none => rfl
        | some y =>
          dsimp only at h ⊢
          by_cases may : m.mayQueue .engineControl = true
          · rw [if_pos may] at h
            cases h
          · rw [if_neg may, Part.startWait_eq_none] at h ⊢
            exact h
  · rw [if_neg stopping]

/-- With no internal work ready, none is ready at another event, nor, with a delivery tree in progress, with other jobs. -/
theorem Part.settled_withJobs (m : Part) (base : Word) (event : Nat) (jobs : List Job)
    (working : m.engine.working = true) (same : jobs = m.jobs ∨ m.tree ≠ []) (h : m.settled base) :
    (m.withJobs event jobs).settled base := by
  rw [Part.settled_working_iff m base working] at h
  rw [Part.settled_working_iff (m.withJobs event jobs) base working]
  obtain ⟨claims, tree, resumed, heads, job, sweep, stop⟩ := h
  exact ⟨m.claimStep_withJobs base event jobs claims, m.treeStep_withJobs base event jobs tree,
    fun p => m.resumeStep_withJobs event jobs p (resumed p), fun p => m.headStep_withJobs event jobs p (heads p),
    m.jobStep_withJobs base event jobs same job, m.sweepStep_withJobs base event jobs same sweep,
    m.stopStep_withJobs base event jobs same stop⟩

end Sys2Proof.Machine
end

