-- ==== Sys2Proof/Tests/Slice0.lean ====
section
/-! SUPPORT. The model's own tests: the well-formedness smoke, the data sheet's worked figures, small steps, and for each
statement of the obligations a state and operands that meet its hypotheses. -/

open Sys2Proof Sys2Proof.Machine

-- One proof at a time: many evaluations of the machine at once would each need a stack of their own.
set_option Elab.async false

namespace Sys2Proof.Tests

/-! ### Helpers -/

/-- The state a command leaves. -/
def after (c : Instr) (s : State) : State :=
  match exec c s with
  | .next t => t
  | .fault _ => s
  | .refused _ => s

/-- Port 0 MASTER, port 1 RESPONDER of station 17, port 2 PEER of station 9 with partner 4, port 3 OFF; turnaround
delay 2. -/
def ports : Vector PortSetup 4 :=
  #v[⟨1, 0, 0, 0, 0, 4, 2, 0, 100⟩, ⟨2, 0, 0, 17, 0, 4, 2, 0, 0⟩, ⟨3, 0, 0, 9, 4, 4, 2, 3, 100⟩, PortSetup.reset]

/-- Table 0 of 100 words, table 1 of 100 bits, both OPEN with notify. -/
def tables : Vector TableEntry 8 :=
  ((Vector.replicate 8 TableEntry.reset).set 0 ⟨1, 0, 2, 1, 0x2000, 100⟩).set 1 ⟨1, 1, 2, 1, 0x3000, 100⟩

/-- A part in RUNNING, between two sweeps. -/
def running : Part :=
  { Part.reset with
    engine := .running
    setup := ⟨⟨0x416A, 10, 5, 50⟩, ports, tables⟩
    ports := #v[adoptedPort ports[0], adoptedPort ports[1], adoptedPort ports[2], adoptedPort ports[3]]
    sweep := { Sweep.reset with timer := true } }

def inState (m : Part) : State := ⟨⟨0x1000, 1, false, 31, false⟩, m, [], []⟩

/-- RUNNING with one port changed. -/
def portOf (p : PortNo) (f : Port → Port) : State := inState (running.onPort p f)

/-- RUNNING with one slot changed. -/
def slotOf (n : SlotNo) (f : Slot → Slot) : Part := running.onSlot n f

/-- A FETCH_WORDS order of port 0 to station 17. -/
def fetchOrder : Order := ⟨0, 0x11, 17, 1, 0, 2, 1, 0xFF, 10, 20, 3, 0, 0, 0⟩

def fetchRun (started : Nat) : Run := ⟨some ⟨4, fetchOrder⟩, 7, started, 2, none, zeroReply, false, none⟩

/-- The levels of a character without a parity bit. -/
def levelsOf (v : Byte) : Levels :=
  (List.range 11).foldl (fun acc i => if (charLevels 0 v).getD i true then acc ||| BitVec.twoPow 11 i else acc) 0

/-- A character arrives whole, at a port without parity. -/
def arrival (p : PortNo) (v : Byte) (sinh : Bool) : Instr := .characterArrival p (levelsOf v) false sinh

/-- A character is under way, and the receiver machine is as given. -/
def receiving (r : Receiver) (x : Port) : Port := { x with receiver := r, underWay := 1, silence := false }

/-- An answer that names the burst granted at event `event`. -/
def answerOf (event : Nat) : BusAnswer := ⟨event, Vector.replicate 64 0⟩

/-- A receiver machine that has all of a frame but its last byte. -/
def lacksLast (station kind tag : Byte) (body : List Byte) : Receiver :=
  (((frameProper station kind tag body).dropLast.foldl (fun x b => x.1.arrive b .good)
    ((Receiver.hunting.arrive 0xC5 .good)))).1

def lastByte (station kind tag : Byte) (body : List Byte) : Byte := (frameProper station kind tag body).getLastD 0

def frameOf (station kind tag : Byte) (body : List Byte) : Frame :=
  ⟨station, kind, tag, body, crc (coveredBytes station kind tag body)⟩

/-- A producer waits, and there is room. -/
def waiting (who : Producer) (m : Part) : State := inState { m with waiters := [⟨who, 0⟩] }

/-! ### Well-formedness -/

theorem test_base_write_needs_a_lane : (Instr.baseWrite 0x1000 0).wellFormed = false := by decide
theorem test_attention_write_needs_a_lane : (Instr.attentionWrite 1 0).wellFormed = false := by decide
theorem test_other_write_needs_a_lane : (Instr.otherRegisterWrite .status 1 0).wellFormed = false := by decide
theorem test_control_code_3_is_soft_reset : (Instr.otherRegisterWrite .control 3 15).wellFormed = false := by decide
theorem test_writes_that_are_well_formed :
    (Instr.baseWrite 0x1000 1).wellFormed = true ∧ (Instr.attentionWrite 1 8).wellFormed = true ∧
      (Instr.otherRegisterWrite .control 6 15).wellFormed = true ∧
      (Instr.otherRegisterWrite .control 0x103 15).wellFormed = true := by decide
theorem test_character_needs_its_start_bit :
    (Instr.characterArrival 0 (levelsOf 0xC5 ||| 1) false false).wellFormed = false ∧
      (arrival 0 0xC5 false).wellFormed = true := by decide +kernel
theorem test_no_word_spells_a_command : decodeTableWord 32 1 = none ∧ decodeTableWord 0 0 = none := by decide

/-! ### Figures of the data sheet -/

/-- R71: the check over the nine bytes 0x31 to 0x39. -/
theorem test_check_of_nine_bytes : crc [0x31, 0x32, 0x33, 0x34, 0x35, 0x36, 0x37, 0x38, 0x39] = 0x29B1 := by
  decide +kernel

/-- Section 12.6: the part word of slot 3, its post IGNORED_BUSY. -/
theorem test_part_word_of_a_done_slot :
    partWordBytes { Slot.reset with state := .done, postOutcome := .ignoredBusy, seenPost := 0x42, completions := 1 } =
      [4, 1, 0x42, 0, 1, 0, 0, 0] := by decide

/-- R167: STOPPED with setup error 8 while host software is ABSENT. -/
theorem test_status_of_a_failed_load :
    readStatus (inState { running with
      engine := .stopped, setupError := 8, sweep := { running.sweep with presence := .absent } }) = 0x00010804 := by
  decide

/-- Table 9-3: elements 3 to 12 of a BITS table, edge bytes 0xFF and 0xFF. -/
theorem test_bit_write_of_ten_elements : mergeBits [0, 0] 3 10 2 0xFF 0xFF = [0x07, 0xE0] := by decide +kernel

/-- Table 3-6. -/
theorem test_byte_rounding_of_claims :
    conflict true ⟨.port 0, .exclusive, 10, 10, true⟩ ⟨.port 1, .shared, 20, 10, true⟩ = true ∧
    conflict true ⟨.port 0, .exclusive, 10, 10, true⟩ ⟨.port 1, .shared, 24, 6, true⟩ = false ∧
    conflict true ⟨.port 0, .exclusive, 0, 4, true⟩ ⟨.port 1, .exclusive, 4, 4, true⟩ = true ∧
    conflict true ⟨.port 0, .shared, 0, 16, true⟩ ⟨.port 1, .shared, 8, 16, true⟩ = false := by decide

/-- A formed frame comes back (the obligation FormedFrameIsReceivedGood, on one frame). -/
theorem test_formed_frame_comes_back :
    (lacksLast 17 0x11 7 [2, 20, 0, 3, 0]).arrive (lastByte 17 0x11 7 [2, 20, 0, 3, 0]) .good =
      (Receiver.hunting, some (.good (frameOf 17 0x11 7 [2, 20, 0, 3, 0]))) := by decide +kernel

/-- R66: the lead character 0xC5 with each parity setting, start bit and least significant data bit first. -/
theorem test_levels_of_the_lead_character :
    charLevels 0 0xC5 = [false, true, false, true, false, false, false, true, true, true] ∧
    charLevels 1 0xC5 = [false, true, false, true, false, false, false, true, true, false, true] ∧
    charLevels 2 0xC5 = [false, true, false, true, false, false, false, true, true, true, true] := by decide +kernel

/-- R68: the statuses of 0xC5 with EVEN parity, the first that applies. -/
theorem test_statuses_of_an_arrival :
    charStatus 1 0b10110001010 false = .good ∧ charStatus 1 0b11110001010 false = .parityError ∧
    charStatus 1 0b01110001010 false = .framingError ∧ charStatus 1 0b01110001010 true = .overrun := by decide +kernel

/-- R70, R72, R188: a request goes out with its lead character first, and the line is at mark behind its last bit. -/
theorem test_request_on_the_line :
    let m := running.onPort 0 fun x => { x with tx := some .request, txBuffer := frameProper 17 0x16 7 [] }
    (m.port 0).txFrame = 0xC5 :: frameProper 17 0x16 7 [] ∧
      (List.range 10).map (m.txd 0) = charLevels 0 0xC5 ∧ m.txd 0 70 = true ∧ running.txd 0 0 = true := by
  decide +kernel

/-! ### Steps -/

theorem test_start_reads_the_global_setup :
    (after .start State.reset).part.bus = some ⟨.sweep, 0x40, 32, false, 1⟩ ∧
      readStatus (after .start State.reset) = 1 ∧ readControl (after .start State.reset) = 1 := by decide +kernel

theorem test_empty_queue_idles : step State.reset = .next State.reset := rfl

/-- The global setup is in its lanes, the read of port 0's setup follows. -/
theorem test_setup_reads_follow_each_other :
    (after (.burstAnswered (answerOf 1)) (after .start State.reset)).part.loader.phase = .setupRead 1 ∧
      (after (.burstAnswered (answerOf 1)) (after .start State.reset)).part.bus = some ⟨.sweep, 0x60, 32, false, 2⟩ ∧
      (after (.burstAnswered (answerOf 0)) (after .start State.reset)).part.loader.phase = .setupRead 0 := by decide +kernel

theorem test_sweep_now_reads_the_host_mark :
    (after .sweepNow (inState running)).part.bus = some ⟨.sweep, 0x1000, 4, false, 1⟩ := by decide +kernel

theorem test_probe_is_answered :
    let s := portOf 1 (receiving (lacksLast 17 0x16 5 []))
    ((after (arrival 1 (lastByte 17 0x16 5 []) true) s).part.port 1).answerBuffer =
        frameProper 17 0x56 5 [0x16, 0x04, 2, 17, 3, 1] ∧
      ((after (arrival 1 (lastByte 17 0x16 5 []) true) s).part.port 1).activity = .turnaround := by
  decide +kernel

theorem test_partner_bid_is_granted :
    let s := portOf 2 (receiving (lacksLast 9 0x21 5 []))
    ((after (arrival 2 (lastByte 9 0x21 5 []) false) s).part.port 2).activity = .grantedOut ∧
      ((after (arrival 2 (lastByte 9 0x21 5 []) false) s).part.port 2).answerBuffer = frameProper 4 0x22 5 [] := by
  decide +kernel

/-! ### The hypotheses of the obligations are met -/

theorem test_meets_StepTakesFrontCommand : ({ State.reset with pending := [.start] } : State).pending = .start :: [] :=
  rfl

/-- What a piece leaves here: no job, this queue 0, this activity of port 2, no tallies to clear. -/
def pieceLeaves (x : Option Part) (queue : List SlotNo) (act : Activity) : Bool :=
  x.any fun y => y.jobs.isEmpty && y.queue 0 == queue && (y.port 2).activity == act && y.clearPending.isEmpty

def piecesWaiting : Part :=
  { ((slotOf 4 fun x => { x with state := .queued, order := fetchOrder }).setQueue 0 [4]) with jobs := [⟨.expiry 9, 0⟩] }

def resumptionWaits : Part :=
  ({ piecesWaiting with jobs := [] } : Part).onPort 2 fun x => { x with run := { fetchRun 1 with suspended := true } }

def entriesBeforeAdoption : Part :=
  { running with engine := .loading, clearPending := [1], loader := { running.loader with phase := .adopting 3 } }

/-- Period expiries of slot 9, normal, and slot 12, urgent, that a delivery tree has held back. -/
def heldExpiries : Part :=
  let x : Slot := { Slot.reset with state := .taken, order := { fetchOrder with period := 50 }, periodTimer := true }
  { ((running.onSlot 9 fun _ => x).onSlot 12 fun _ => { x with order := { fetchOrder with period := 50, flags := 2 } }) with
    jobs := [⟨.expiry 9, 0⟩, ⟨.expiry 12, 0⟩] }

/-- Each expiry is an event: port 0 takes slot 9 at the first, and the urgent slot of the second waits (R40, R42). -/
theorem test_head_is_taken_between_held_expiries :
    let m := Part.settle 0x1000 8 heldExpiries
    m.jobs = [] ∧ (m.slot 9).state = .active ∧ (m.slot 12).state = .queued ∧ m.queue 0 = [12] := by
  decide +kernel

/-- The first piece there is goes first: a head-taking before a job, a resumption before the head-taking of a lower port,
and in LOADING the entries of CLEAR_TALLIES before the adoption's. -/
theorem test_meets_SettledEventOnlyGrantsBus_pieces :
    ((piecesWaiting.settleStep 0x1000).any fun y => y.queue 0 == [] && y.jobs.length == 1) = true ∧
      (piecesWaiting.jobStep 0x1000).isSome = true ∧
      pieceLeaves (resumptionWaits.settleStep 0x1000) [4] .bidding = true ∧
      pieceLeaves (entriesBeforeAdoption.settleStep 0x1000) [] .idle = true ∧
      (entriesBeforeAdoption.adoptStep 0x1000).isSome = true := by
  decide +kernel

theorem test_meets_SettledEventOnlyGrantsBus : Part.reset.settled 0 ∧ running.settled 0x1000 := by
  constructor <;> unfold Part.settled <;> decide +kernel

theorem test_meets_MemoryAndWindowChangeOnlyAtTheirCommands :
    Instr.stop.wellFormed = true ∧ endsBurst .stop = false ∧ exec .stop State.reset = .next (after .stop State.reset) ∧
      writesWindow .busError = false ∧ exec .busError State.reset = .next State.reset.burstFails :=
  ⟨rfl, rfl, rfl, rfl, rfl⟩

def writerBurst : Part :=
  { running with xq := [⟨[⟨0x1004, [1, 2, 3]⟩]⟩], bus := some ⟨.writer, 0x1004, 3, false, 8⟩ }

theorem test_meets_AnsweredBurstWritesExactlyItsBytes :
    let b : Burst := ⟨.writer, 0x1004, 3, false, 8⟩
    let s := inState writerBurst
    s.window.resetAsserted = false ∧ s.part.bus = some b ∧ b.event = (answerOf 8).event ∧ b.event ≠ (answerOf 7).event ∧
      writerBurst.burstBytes b = [1, 2, 3] ∧
      (after (.burstAnswered (answerOf 8)) s).memory = [(0x1004, 1), (0x1005, 2), (0x1006, 3)] ∧
      (after (.burstAnswered (answerOf 7)) s).part.bus = some b ∧ (after (.burstAnswered (answerOf 7)) s).memory = [] := by
  decide +kernel

theorem test_meets_CutBurstLeavesOldOrNewBytes :
    (inState running).window.resetAsserted = false ∧ running.bus = none ∧ writerBurst.bus.isSome = true := by decide

theorem test_meets_CommandsAreAcceptedOrRefused :
    commandCode .start = some 1 ∧ acceptedIn 1 State.reset.part.engine = true ∧ commandCode .stop = some 2 ∧
      acceptedIn 2 State.reset.part.engine = false ∧ State.reset.window.resetAsserted = false := by decide

theorem test_meets_StartBeginsLoading :
    State.reset.part.engine = .halted ∧ State.reset.part.clearPending = [] ∧
      ({ running with engine := .stopped, clearPending := [3] } : Part).engine = .stopped ∧
      ({ running with engine := .stopped, clearPending := [3] } : Part).clearPending ≠ [] := by decide

theorem test_meets_StopBeginsStoppingOrEndsLoading :
    running.engine = .running ∧
    (let m := { Part.reset with engine := .loading, loader := { Loader.reset with phase := .adopting 28 } }
     m.engine = .loading ∧ m.clearPending = [] ∧ ∃ k, m.loader.phase = .adopting k) ∧
    (let m := { Part.reset with
       engine := .loading, loader := { Loader.reset with phase := .adoptRead 23 }
       bus := some ⟨.sweep, 0x100, 4, false, 6⟩ }
     m.engine = .loading ∧ m.clearPending = [] ∧ (¬∃ k, m.loader.phase = .adopting k) ∧
       m.bus = some ⟨.sweep, 0x100, 4, false, 6⟩) :=
  ⟨rfl, ⟨rfl, rfl, 28, rfl⟩, rfl, rfl, fun ⟨_, h⟩ => LoadPhase.noConfusion h, rfl⟩

/-- A START taken while two entries of CLEAR_TALLIES are to be queued, with the exchange write queue full or not. -/
def clearing (full : Bool) : Part :=
  { Part.reset with
    engine := .loading, clearPending := [2, 3], loader := { Loader.reset with phase := .clearing }
    xq := if full then List.replicate 24 ⟨[⟨0x1004, [0]⟩]⟩ else []
    waiters := if full then [⟨.engineControl, 0⟩] else [] }

/-- R166 note 1, R168: STOP abandons the load that waits for entries of CLEAR_TALLIES, which stay to be queued. -/
theorem test_meets_StopBeginsStoppingOrEndsLoading_entries :
    let t := (after .stop (inState (clearing true))).part
    let u := (after .stop (inState (clearing false))).part
    (clearing true).engine = .loading ∧ (clearing true).loader.phase = .clearing ∧ (clearing true).clearPending ≠ [] ∧
      (clearing true).waits .engineControl = true ∧ t.engine = .stopped ∧ t.clearPending = [2, 3] ∧ t.causes = 8 ∧
      t.loader = Loader.reset ∧ u.engine = .stopped ∧ u.clearPending = [] ∧ u.xq.length = 2 ∧ u.sweepAccess = none := by
  decide +kernel

theorem test_meets_resets_and_mask :
    (inState running).window.resetAsserted = false ∧ (after .pinReset (inState running)).window.resetAsserted = true ∧
      after .start (after .pinReset (inState running)) = after .pinReset (inState running) ∧
      after .pinResetRelease (after .pinReset State.reset) = { State.reset with part := { Part.reset with eventNo := 1 } } := by
  decide +kernel

/-- Once the stop sequence has begun a timer expiry starts no sweep. -/
theorem test_meets_SweepsStartOrAreMarkedPending_stop_sequence :
    let s := inState { running with
      engine := .stopping, stopSequence := some (.holds 3), sweep := { running.sweep with phase := .idle, timer := true }
      inbox := [.stored 0], waiters := [⟨.claimUnit, 0⟩] }
    (after .sweepTimerExpiry s).part.sweep.phase = .idle ∧ (after .sweepTimerExpiry s).part.sweepAccess = s.part.sweepAccess := by
  decide +kernel

theorem test_meets_SweepsStartOrAreMarkedPending :
    running.engine = .running ∧ running.sweep.phase = .idle ∧ running.sweep.timer = true ∧ running.stopSequence = none ∧
      (running.setSweepPhase .mark).sweep.phase ≠ .idle ∧ (running.setSweepPhase .mark).sweep.pending = false ∧
      ({ running with sweep := { running.sweep with phase := .header, pending := true } } : Part).sweep.pending = true := by
  decide

theorem test_meets_CommandsInEveryEngineState :
    (∀ e : EngineState, ({ running with engine := e } : Part).engine = e) ∧
      (inState running).window.resetAsserted = false ∧ isCommandCode (laneValue 0xFFFFFF06 1) = false ∧
      isCommandCode (laneValue 0 15) = false := ⟨fun _ => rfl, by decide⟩

/-- The lead, a wrong value, and the lead with its stop bit at space. -/
theorem test_meets_HuntTakesOnlyGoodLead :
    let s := portOf 0 (receiving Receiver.hunting)
    (s.takesCharacter 0 (levelsOf 0xC5)) ∧ (s.takesCharacter 0 (levelsOf 0xC4)) ∧ (s.takesCharacter 0 0x18A) ∧
      (s.part.port 0).receiver.state = .hunt ∧ s.part.arrivalStatus 0 (levelsOf 0xC5) false = .good ∧
      charValue (levelsOf 0xC5) = 0xC5 ∧ charValue (levelsOf 0xC4) ≠ 0xC5 ∧
      s.part.arrivalStatus 0 0x18A false = .framingError ∧ (running.port 0).underWay = 0 ∧
      ((after (arrival 0 0xC5 false) s).part.port 0).receiver.state = .collect := by
  simp only [State.takesCharacter]; decide +kernel

theorem test_meets_SpoiledFrameIsDiscarded :
    let r : Receiver := ⟨.collect, [1, 2, 3], none, 0⟩
    r.state = .collect ∧ CharStatus.overrun ≠ .good ∧ r.buffer.length = 3 ∧ 248 < (249 : Byte).toNat ∧
      (r.arrive 248 .good).1.state = .collect := by decide +kernel

theorem test_meets_CollectStoresAndReports :
    let r : Receiver := ⟨.collect, [1, 2, 3, 0], some 0, 0⟩
    let k : Receiver := ⟨.collect, [1, 2, 3], none, 0⟩
    r.state = .collect ∧ r.bodyLength = some 0 ∧ 4 ≤ r.buffer.length ∧ r.buffer.length + 1 < 6 + 0 ∧
      ({ r with buffer := [1, 2, 3, 0, 9] } : Receiver).buffer.length + 1 = 6 + 0 ∧
      k.bodyLength = none ∧ k.buffer.length = 3 ∧ (248 : Byte).toNat ≤ 248 ∧
      ({ k with buffer := [1, 2] } : Receiver).buffer.length < 3 ∧
      (({ r with buffer := [1, 2, 3, 0, 9], check := 0x0109 } : Receiver).arrive 1 .good).2 =
        some (.good ⟨1, 2, 3, [], 0x0109⟩) ∧
      (({ r with buffer := [1, 2, 3, 0, 9], check := 0x0108 } : Receiver).arrive 1 .good).2 = some .badCheck := by
  decide +kernel

theorem test_meets_SilenceEndsAtEdgeAndAbandonsAtGap :
    let x := (portOf 0 fun x => { x with receiver := { x.receiver with state := .collect } }).part.port 0
    x.tx = none ∧ x.receiver.state = .collect ∧ x.silence = true ∧ x.activity ≠ .awaiting := by decide +kernel

/-- R69, R72, R73: a start edge at a port that transmits, and one at a port whose receiver machine is inactive. -/
theorem test_meets_SilenceEndsAtEdgeAndAbandonsAtGap_elsewhere :
    let s := portOf 0 fun x => x.startTx .request
    let x := (after (.confirmedStartEdge 0) s).part.port 0
    (s.part.port 0).receiver.state ≠ .inactive ∧ (s.part.port 0).tx = some .request ∧ x.tx = some .request ∧
      x.underWay = 1 ∧ x.silence = false ∧ (running.port 3).receiver.state = .inactive ∧
      (after (.confirmedStartEdge 3) (inState running)).part.port 3 = running.port 3 := by decide +kernel

/-- R68: the status of an arrival is by the parity of the port, and an overrun when a further start edge was confirmed. -/
theorem test_status_of_an_arrival_at_a_port :
    let m := (portOf 0 fun x => { x with underWay := 1 }).part
    let even : Part := { m with setup := { m.setup with ports := m.setup.ports.map fun x => { x with parity := 1 } } }
    m.arrivalStatus 0 0b11110001010 false = .good ∧ even.arrivalStatus 0 0b11110001010 false = .parityError ∧
      (m.onPort 0 fun x => { x with underWay := 2 }).arrivalStatus 0 0b11110001010 false = .overrun := by decide +kernel

theorem test_meets_DiscardSkipsUntilSilence :
    let s := portOf 1 (receiving { Receiver.hunting with state := .discard })
    let x := (portOf 1 fun x => { x with receiver := { x.receiver with state := .discard } }).part.port 1
    s.takesCharacter 1 (levelsOf 0xC5) ∧ (s.part.port 1).receiver.state = .discard ∧
      x.tx = none ∧ x.receiver.state = .discard ∧ x.silence = true := by
  simp only [State.takesCharacter]; decide +kernel

theorem test_meets_UnwantedFramesAreOnlyCounted :
    let f := frameOf 17 0x11 7 [2, 20, 0, 3, 0]
    let levels := levelsOf (lastByte 17 0x11 7 f.body)
    let s := portOf 0 (receiving (lacksLast 17 0x11 7 f.body))
    let k := portOf 1 fun x => { receiving (lacksLast 17 0x11 7 f.body) x with activity := .replying }
    s.completesFrame 0 levels false f ∧ (s.part.portSetup 0).role = 1 ∧ (s.part.port 0).activity ≠ .awaiting ∧
      k.completesFrame 1 levels false f ∧ (k.part.portSetup 1).role = 2 ∧ (k.part.port 1).activity.serves = true ∧
      isRequestFrame f.kind = true ∧ f.station = (k.part.portSetup 1).ownStation := by
  simp only [State.completesFrame, State.takesCharacter]; decide +kernel

/-- A framing error, a length byte of 249, and a bad check at a port that awaits no answer. -/
theorem test_meets_UnwantedFramesAreOnlyCounted_unreadable :
    let bad := portOf 1 (receiving (lacksLast 17 0x11 7 [2, 20, 0, 3, 0]))
    let long := portOf 1 (receiving { Receiver.hunting with state := .collect, buffer := [17, 0x11, 7] })
    let r := (bad.part.port 1).receiver
    let run (s : State) (levels : Levels) := (after (.characterArrival 1 levels false false) s).part.port 1
    bad.takesCharacter 1 0 ∧ r.state = .collect ∧ (bad.part.port 1).activity ≠ .awaiting ∧
      bad.part.arrivalStatus 1 0 false ≠ .good ∧ (run bad 0).tallies.droppedFormat = 1 ∧
      (long.part.port 1).receiver.buffer.length = 3 ∧ 248 < (charValue (levelsOf 249)).toNat ∧
      (run long (levelsOf 249)).tallies.droppedFormat = 1 ∧ (run long (levelsOf 249)).receiver.state = .discard ∧
      r.bodyLength = some 5 ∧ r.buffer.length + 1 = 6 + 5 ∧ bad.part.arrivalStatus 1 (levelsOf 0) false = .good ∧
      halfAt (r.buffer ++ [charValue (levelsOf 0)]) (4 + 5) ≠ r.check ∧ (run bad (levelsOf 0)).tallies.droppedCheck = 1 := by
  simp only [State.takesCharacter]; decide +kernel

theorem test_meets_RequestIsReplayedOrRefused :
    let f := frameOf 17 0x11 7 [2, 20, 0, 3, 0]
    let r : Replay := ⟨0x11, 7, f.check, [1]⟩
    let s := portOf 1 fun x => { receiving (lacksLast 17 0x11 7 f.body) x with replay := some r }
    s.completesFrame 1 (levelsOf (lastByte 17 0x11 7 f.body)) false f ∧ s.part.engine = .running ∧
      (s.part.portSetup 1).role = 2 ∧ (s.part.portSetup 1).turnaround ≠ 0 ∧ (s.part.port 1).activity = .idle ∧
      isRequestFrame f.kind = true ∧ f.station = (s.part.portSetup 1).ownStation ∧ f.station ≠ 255 ∧
      (s.part.reported 1).replay = some r ∧ (running.port 1).replay = none ∧
      validate s.part.setup.tables s.part.sweep.presence f.kind f.body false = some 3 := by
  simp only [State.completesFrame, State.takesCharacter]; decide +kernel

/-- Table 6-4: one request that fails each step, and one that passes at the end of its table. -/
theorem test_meets_RequestIsReplayedOrRefused_steps :
    let d := tables.set 2 ⟨1, 0, 1, 0, 0x4000, 10⟩
    validate d .present 0x18 [] false = some 1 ∧ validate d .present 0x11 [0, 0, 0, 121, 0] false = some 2 ∧
      validate d .present 0x12 [0, 0, 0, 1, 0] false = some 3 ∧ validate d .present 0x11 [8, 0, 0, 1, 0] false = some 3 ∧
      validate d .present 0x11 [0, 99, 0, 2, 0] false = some 4 ∧ validate d .present 0x11 [0, 98, 0, 2, 0] false = none ∧
      validate d .present 0x15 [2, 9, 0, 0, 0, 0, 0] false = some 5 ∧
      validate d .present 0x15 [0, 99, 0, 0, 0, 0, 0] true = some 5 ∧
      validate d .present 0x11 [2, 9, 0, 1, 0] true = none ∧ validate d .absent 0x17 [] false = some 7 := by
  decide +kernel

/-- Requests at the RESPONDER port: served with the claim of each mode, answered at once, broadcast served, refused and
dropped, foreign, and replayed with turnaround delay 0. -/
theorem test_meets_RequestIsReplayedOrRefused_served :
    let at_ (station kind : Byte) (body : List Byte) (delay : Byte) (r : Option Replay) : State := inState
      { (running.onPort 1 fun x => { receiving (lacksLast station kind 7 body) x with replay := r }) with
        setup := { running.setup with ports := ports.set 1 { ports[1] with turnaround := delay } } }
    let run (station kind : Byte) (body : List Byte) (delay : Byte) (r : Option Replay) :=
      (after (arrival 1 (lastByte station kind 7 body) false) (at_ station kind body delay r)).part
    let claims (kind : Byte) (body : List Byte) := (run 17 kind body 2 none).claimList 0
    (at_ 17 0x11 [0, 20, 0, 3, 0] 2 none).completesFrame 1 (levelsOf (lastByte 17 0x11 7 [0, 20, 0, 3, 0])) false
        (frameOf 17 0x11 7 [0, 20, 0, 3, 0]) ∧
      claims 0x11 [0, 20, 0, 3, 0] = [⟨.port 1, .shared, 20, 3, true⟩] ∧
      claims 0x13 [0, 20, 0, 1, 0, 5, 6] = [⟨.port 1, .exclusive, 20, 1, true⟩] ∧
      claims 0x15 [0, 99, 0, 1, 0, 2, 0] = [⟨.port 1, .exclusive, 99, 1, true⟩] ∧
      ((run 17 0x16 [] 2 none).port 1).answerBuffer = frameProper 17 0x56 7 [0x16, 0x04, 2, 17, 3, 0] ∧
      ((run 17 0x16 [] 0 none).port 1).activity = .replying ∧
      ((run 17 0x17 [] 2 none).port 1).tallies.framesAccepted = 0 ∧
      ((run 255 0x17 [] 2 none).port 1).activity = .idle ∧
      ((run 255 0x11 [0, 0, 0, 1, 0] 2 none).port 1).tallies.droppedFormat = 1 ∧
      ((run 255 0x13 [9, 0, 0, 1, 0, 5, 6] 2 none).port 1).fault.reason = 3 ∧
      ((run 18 0x11 [0, 0, 0, 1, 0] 2 none).port 1).tallies.foreign = 1 ∧
      ((run 17 0x16 [] 0 (some ⟨0x16, 7, crc (coveredBytes 17 0x16 7 []), [1]⟩)).port 1).answerBuffer = [1] := by
  simp only [State.completesFrame, State.takesCharacter]; decide +kernel

theorem test_meets_ReplyIsKeptForReplay :
    (running.port 1).service.broadcast = false ∧ (running.port 1).answerDelay = false ∧
      ((running.onPort 1 fun x => { x with answerDelay := true }).port 1).answerDelay = true ∧
      ((running.onPort 1 fun x => { x with service := { x.service with broadcast := true } }).port 1).service.broadcast =
        true := by decide +kernel

theorem test_meets_FormedFrameIsReceivedGood :
    (List.replicate 248 (0 : Byte)).length ≤ 248 ∧ (running.portSetup 0).parity = 0 ∧ (9 : Nat) < 10 ∧
      (∀ i, i < (charLevels 0 0xC5).length → (charLevels 0 0xC5)[i]? = some ((levelsOf 0xC5).getLsbD i)) ∧
      (0x18A : Levels).getLsbD ((charLevels 0 0xC5).length - 1) = false ∧
      charValue 0b11110001010 = 0xC5 ∧ (charLevels 1 0xC5)[9]? ≠ some ((0b11110001010 : Levels).getLsbD 9) ∧
      (0b11110001010 : Levels).getLsbD ((charLevels 1 0xC5).length - 1) = true := by
  refine ⟨le_of_eq List.length_replicate, by decide +kernel, by decide, by decide +kernel, by decide +kernel,
    by decide +kernel, by decide +kernel, by decide +kernel⟩

theorem test_meets_EndOfTransmissionReleasesLine :
    let w : Work := ⟨4, fetchOrder⟩
    let m := (portOf 0 fun x => { x with tx := some .request, run := fetchRun 1 }).part
    m.engine.working = true ∧ (m.port 0).tx = some .request ∧ (m.port 0).run.work = some w ∧
      w.order.station ≠ 255 ∧ (m.portSetup 0).turnaround ≠ 0 ∧
      ({ fetchOrder with station := 255 } : Order).station = 255 ∧ m.engine = .running ∧
      m.enterStopping.engine = .stopping ∧
      ((portOf 2 fun x => { x with tx := some .grant }).part.port 2).tx = some .grant := by decide +kernel

theorem test_meets_PassedDelayStartsTransmission :
    ((portOf 0 fun x => { x with activity := .sending }).part.port 0).activity = .sending ∧
      (running.port 0).tx = none ∧
      ((portOf 2 fun x => { x with activity := .bidding, peer := { x.peer with bidPhase := .holdoff } }).part.port
        2).peer.bidPhase = .holdoff ∧
      ((portOf 2 fun x => { x with activity := .grantedOut, peer := { x.peer with grantPhase := .pending } }).part.port
        2).peer.grantPhase = .pending ∧
      ((portOf 1 fun x => { x with activity := .turnaround }).part.port 1).activity = .turnaround ∧
      (running.port 0).activity = .idle ∧
      ((portOf 1 fun x => { x with activity := .serving }).part.port 1).activity = .serving := by decide +kernel

theorem test_meets_ReplyTimeoutEndsAttempt :
    let m := (portOf 0 fun x => { x with activity := .awaiting, run := fetchRun 1 }).part
    let g := { (portOf 0 fun x => { x with receiver := { x.receiver with state := .collect } }).part.port 0 with
      activity := .awaiting }
    (m.port 0).activity = .awaiting ∧ (m.port 0).run.work = some ⟨4, fetchOrder⟩ ∧
      (fetchRun 1).started < (fetchRun 1).allowed ∧ ¬((fetchRun 2).started < (fetchRun 2).allowed) ∧
      (m.portSetup 0).turnaround ≠ 0 ∧ g.tx = none ∧ g.receiver.state = .collect ∧ g.silence = true := by decide +kernel

/-- An awaiting port, with a frame that lacks its last byte, and that byte. -/
def answered (kind tag : Byte) (body : List Byte) (order : Order) : State :=
  portOf 0 fun x => { receiving (lacksLast 17 kind tag body) x with
    activity := .awaiting, run := { fetchRun 1 with work := some ⟨4, order⟩ } }

/-- A reply to a fetch, a reply to a probe, an inconsistent reply, a BUSY and another refusal, and a foreign frame. -/
theorem test_meets_ReplyTimeoutEndsAttempt_answers :
    let probe : Order := { fetchOrder with kind := 0x16 }
    let data : List Byte := [2, 20, 0, 3, 0, 1, 2, 3, 4, 5, 6]
    let last (kind tag : Byte) (body : List Byte) := arrival 0 (lastByte 17 kind tag body) false
    let run (kind tag : Byte) (body : List Byte) (o : Order) :=
      (after (last kind tag body) (answered kind tag body o)).part.port 0
    (answered 0x51 7 data fetchOrder).completesFrame 0 (levelsOf (lastByte 17 0x51 7 data)) false (frameOf 17 0x51 7 data) ∧
      replyConsistent fetchOrder data = true ∧ (run 0x51 7 data fetchOrder).activity = .depositing ∧
      (run 0x56 7 [1, 2, 3, 4, 5, 6] probe).activity = .idle ∧
      (run 0x51 7 [2, 20, 0, 3, 0] fetchOrder).activity = .retryWait ∧
      (run 0x51 7 [2, 20, 0, 3, 0] fetchOrder).run.lastFailure = some .garbled ∧
      (run 0x7E 7 [0x11, 6] fetchOrder).run.lastFailure = some .busy ∧
      (run 0x7E 7 [0x11, 5] fetchOrder).fault.reason = 5 ∧ (run 0x7E 7 [0x11, 5] fetchOrder).activity = .idle ∧
      (run 0x51 8 data fetchOrder).tallies.foreign = 1 := by
  simp only [State.completesFrame, State.takesCharacter]; decide +kernel

/-- A framing error and a bad check in AWAITING. -/
theorem test_meets_ReplyTimeoutEndsAttempt_unreadable :
    let s := answered 0x51 7 [] fetchOrder
    s.takesCharacter 0 0 ∧ (s.part.port 0).receiver.state = .collect ∧ s.part.arrivalStatus 0 0 false = .framingError ∧
      s.takesCharacter 0 (levelsOf 0) ∧ s.part.arrivalStatus 0 (levelsOf 0) false = .good ∧
      (s.part.port 0).receiver.arrive (charValue (levelsOf 0)) .good = (⟨.hunt, [], none, 0xFFFF⟩, some .badCheck) := by
  simp only [State.takesCharacter]; decide +kernel

/-- A length byte of 249 in AWAITING. -/
theorem test_meets_ReplyTimeoutEndsAttempt_long :
    let s := portOf 0 fun x => { receiving { Receiver.hunting with state := .collect, buffer := [17, 0x51, 7] } x with
      activity := .awaiting, run := fetchRun 1 }
    let x := (after (arrival 0 249 false) s).part.port 0
    s.takesCharacter 0 (levelsOf 249) ∧ (s.part.port 0).receiver.state = .collect ∧
      (s.part.port 0).receiver.buffer.length = 3 ∧ 248 < (charValue (levelsOf 249)).toNat ∧
      x.activity = .retryWait ∧ x.run.lastFailure = some .garbled := by
  simp only [State.takesCharacter]; decide +kernel

theorem test_meets_RetryWaitEndStartsNextAttempt :
    let r := { fetchRun 1 with lastFailure := some .busy }
    let m := (portOf 0 fun x => { x with activity := .retryWait, run := r }).part
    let k := (portOf 2 fun x => { x with activity := .retryWait, run := r, holdoff := true }).part
    (m.port 0).activity = .retryWait ∧ (m.port 0).run.work = some ⟨4, fetchOrder⟩ ∧ (m.portSetup 0).role = 1 ∧
      m.engine = .running ∧ r.lastFailure = some .busy ∧ (m.enterStopping.port 0).activity = .retryWait ∧
      (k.port 2).activity = .retryWait ∧ (k.portSetup 2).role = 3 ∧ (k.port 2).holdoff = true ∧
      ((after (.retryWaitEnd 0) (inState m)).part.port 0).tx = some .request ∧
      ((after (.retryWaitEnd 2) (inState k)).part.port 2).peer.bidPhase = .holdoff := by decide +kernel

theorem test_meets_SettledBroadcastEndsOk :
    let w : Work := ⟨4, { fetchOrder with station := 255 }⟩
    let m := (portOf 0 fun x => { x with activity := .settling, run := { fetchRun 1 with work := some w } }).part
    (m.port 0).activity = .settling ∧ (m.port 0).run.work = some w ∧ w.order.station = 255 ∧
      ({ m with setup := { m.setup with ports := m.setup.ports.set 0 { ports[0] with turnaround := 0 } } } : Part).portSetup
        0 = { ports[0] with turnaround := 0 } := by decide +kernel

theorem test_meets_PeerTimersEndBidAndGrant :
    let m := (portOf 2 fun x => { x with
      activity := .bidding, run := fetchRun 2, holdoff := true
      peer := { x.peer with bidPhase := .waiting, bidsSpent := 1 } }).part
    (m.port 2).peer.bidPhase = .waiting ∧ (m.port 2).peer.bidsSpent + 1 < (m.portSetup 2).bidLimit.toNat ∧
      ¬(2 + 1 < (m.portSetup 2).bidLimit.toNat) ∧ ¬((fetchRun 2).started < (fetchRun 2).allowed) ∧
      (fetchRun 1).started < (fetchRun 1).allowed ∧
      (m.port 2).holdoff = true ∧ (m.port 2).run.work = some ⟨4, fetchOrder⟩ ∧
      ((portOf 2 fun x => { x with activity := .grantedOut, peer := { x.peer with grantPhase := .granted } }).part.port
        2).peer.grantPhase = .granted := by decide +kernel

/-- The turnaround delay of every port 0. -/
def noDelay (m : Part) : Part :=
  { m with setup := { m.setup with ports := m.setup.ports.map fun x => { x with turnaround := 0 } } }

/-- With turnaround delay 0 the last unanswered BID and a reply timeout start the next attempt of a PEER port at once. -/
theorem test_meets_PeerTimersEndBidAndGrant_no_delay :
    let m := noDelay (portOf 2 fun x => { x with
      activity := .bidding, run := fetchRun 1, peer := { x.peer with bidPhase := .waiting, bidsSpent := 2 } }).part
    let k := noDelay (portOf 2 fun x => { x with activity := .awaiting, run := fetchRun 1 }).part
    let x := (after (.bidTimerExpiry 2) (inState m)).part.port 2
    let y := (after (.replyTimeout 2) (inState k)).part.port 2
    ¬((m.port 2).peer.bidsSpent + 1 < (m.portSetup 2).bidLimit.toNat) ∧ (m.portSetup 2).turnaround = 0 ∧
      (m.portSetup 2).role = 3 ∧ x.activity = .bidding ∧ x.tx = some .bid ∧ x.peer.bidsSpent = 0 ∧ x.run.started = 2 ∧
      (k.port 2).activity = .awaiting ∧ y.activity = .bidding ∧ y.peer.bidsSpent = 0 ∧ y.run.started = 2 := by
  decide +kernel

/-- A port whose waiting BID goes unanswered while the last character of a frame is under way. -/
def bidLapses (station kind : Byte) (m : Part → Part) : State :=
  inState (m (portOf 2 fun x => { receiving (lacksLast station kind 7 []) x with
    activity := .bidding, run := fetchRun 1, peer := { x.peer with bidPhase := .waiting } }).part)

/-- The expiry, and then the last character of a frame, with and without a turnaround delay: the GRANT is accepted and the
BID not sent, a request counted dropped_unbid with the BID waiting, a partner BID yielded to, a foreign frame counted. -/
theorem test_meets_PeerTimersEndBidAndGrant_together :
    let s (station kind : Byte) (m : Part → Part) := after (.bidTimerExpiry 2) (bidLapses station kind m)
    let run (station kind : Byte) (m : Part → Part) :=
      (after (arrival 2 (lastByte station kind 7 []) false) (s station kind m)).part.port 2
    let o := (s 9 0x22 id).part.port 2
    o.holdoff = false ∧ o.tx = none ∧ o.activity = .bidding ∧ o.peer.bidPhase = .holdoff ∧ o.peer.bidsSpent = 1 ∧
      (s 9 0x22 id).completesFrame 2 (levelsOf (lastByte 9 0x22 7 [])) false (frameOf 9 0x22 7 []) ∧
      (run 9 0x22 id).activity = .sending ∧ (run 9 0x22 id).tx = none ∧ (run 9 0x22 id).tallies.framesAccepted = 1 ∧
      (run 9 0x22 noDelay).tx = some .request ∧ (run 9 0x16 id).tallies.droppedUnbid = 1 ∧ (run 9 0x16 id).tx = none ∧
      (run 9 0x16 id).peer.bidPhase = .holdoff ∧ (run 9 0x16 noDelay).peer.bidPhase = .holdoff ∧
      (run 9 0x21 id).tallies.bidsLost = 1 ∧ (run 9 0x21 id).activity = .grantedOut ∧
      (run 8 0x16 id).tallies.foreign = 1 := by
  simp only [State.completesFrame, State.takesCharacter]; decide +kernel

/-- The expiry, the end of the holdoff, and then the last character, which is ignored; and, before that end, a character of
no report and the gap. With no frame being collected the BID is sent at the expiry. -/
theorem test_meets_PeerTimersEndBidAndGrant_behind :
    let s := after (.bidTimerExpiry 2) (bidLapses 9 0x22 id)
    let later := after (.bidHoldoffEnd 2) s
    let gap := after (.bidTimerExpiry 2) (inState ((bidLapses 9 0x22 id).part.onPort 2 fun x =>
      { x with underWay := 0, silence := true }))
    let idle := after (.bidTimerExpiry 2) (inState ((bidLapses 9 0x22 id).part.onPort 2 fun x =>
      { x with receiver := Receiver.hunting }))
    let x := (after (arrival 2 (lastByte 9 0x22 7 []) false) later).part.port 2
    let y := (after (.gapExceeded 2) gap).part.port 2
    let z := (after (arrival 2 0x00 false) s).part.port 2
    (later.part.port 2).tx = some .bid ∧ (later.part.port 2).receiver.state = .hunt ∧
      (after (.gapExceeded 2) later).part = later.part.tick ∧
      x.tallies.framesAccepted = 0 ∧ x.underWay = 0 ∧ x.tx = some .bid ∧
      (gap.part.port 2).receiver.state = .collect ∧ (gap.part.port 2).silence = true ∧
      y.tallies.droppedGap = 1 ∧ y.peer.bidPhase = .holdoff ∧ y.tx = none ∧
      z.tallies.droppedCheck = 1 ∧ z.peer.bidPhase = .holdoff ∧ (idle.part.port 2).tx = some .bid := by decide +kernel

/-- A character of no report at a port whose BID or request waits. -/
theorem test_meets_PeerTimersEndBidAndGrant_no_report :
    let s := portOf 2 fun x => { receiving Receiver.hunting x with
      activity := .bidding, run := fetchRun 1, peer := { x.peer with bidPhase := .holdoff } }
    let k := portOf 0 fun x => { receiving Receiver.hunting x with activity := .sending, run := fetchRun 1 }
    s.takesCharacter 2 (levelsOf 0xC5) ∧ k.takesCharacter 0 (levelsOf 0xC5) ∧
      ((s.part.port 2).receiver.arrive (charValue (levelsOf 0xC5)) (s.part.arrivalStatus 2 (levelsOf 0xC5) false)) =
        ({ Receiver.hunting with state := .collect }, none) ∧
      ((after (arrival 2 0xC5 false) s).part.port 2).receiver.state = .collect ∧
      ((after (arrival 0 0xC5 false) k).part.port 0).receiver.state = .collect := by
  simp only [State.takesCharacter]; decide +kernel

/-- The grant timer expires with a suspended run, and the reply timeout of a PEER port without a delay: the frame that
ends together with the expiry is counted, and the BID follows it. -/
theorem test_frame_together_with_a_resumption_or_a_retry :
    let s := after (.grantTimerExpiry 2) (portOf 2 fun x => { receiving (lacksLast 9 0x16 7 []) x with
      activity := .grantedOut, run := { fetchRun 1 with suspended := true }, peer := { x.peer with grantPhase := .granted } })
    let k := after (.replyTimeout 2) (inState (noDelay (portOf 2 fun x => { receiving (lacksLast 17 0x51 7 []) x with
      activity := .awaiting, run := fetchRun 1 }).part))
    let x := (after (arrival 2 (lastByte 9 0x16 7 []) false) s).part.port 2
    let t := after (arrival 2 (lastByte 17 0x51 7 []) false) k
    let y := t.part.port 2
    (s.part.port 2).tx = none ∧ x.tallies.droppedUnbid = 1 ∧ x.activity = .bidding ∧ x.peer.bidPhase = .holdoff ∧
      (k.part.port 2).tx = none ∧ y.tallies.foreign = 1 ∧ y.activity = .bidding ∧ y.tx = none ∧
      ((after (.bidHoldoffEnd 2) t).part.port 2).tx = some .bid := by
  decide +kernel

/-- The reply timeout of a MASTER port without a delay: the next request begins at the expiry, and a character that ends
later is ignored. -/
theorem test_request_begins_at_the_reply_timeout :
    let k := after (.replyTimeout 0) (inState (noDelay (answered 0x51 7 [] fetchOrder).part))
    let y := (after (arrival 0 (lastByte 17 0x51 7 []) false) k).part.port 0
    (k.part.port 0).tx = some .request ∧ (k.part.port 0).receiver.state = .hunt ∧ y.tx = some .request ∧
      y.tallies.framesAccepted = 0 ∧ y.underWay = 0 := by decide +kernel

/-- R131: a GRANT that comes together with the expiry that spent the bid limit, the expiry first, is counted foreign, also
with turnaround delay 0, and the next attempt bids afresh (log 43). -/
theorem test_meets_PeerTimersEndBidAndGrant_limit_spent :
    let s := inState (noDelay (portOf 2 fun x => { receiving (lacksLast 9 0x22 7 []) x with
      activity := .bidding, run := fetchRun 1, peer := { x.peer with bidPhase := .waiting, bidsSpent := 2 } }).part)
    let t := after (.bidTimerExpiry 2) s
    let u := after (arrival 2 (lastByte 9 0x22 7 []) false) t
    let x := u.part.port 2
    let y := (after (.retryWaitEnd 2) u).part.port 2
    ¬((s.part.port 2).peer.bidsSpent + 1 < (s.part.portSetup 2).bidLimit.toNat) ∧ (s.part.portSetup 2).turnaround = 0 ∧
      (s.part.port 2).receiver.state = .collect ∧ (t.part.port 2).activity = .retryWait ∧
      (t.part.port 2).run.started = 1 ∧ (t.part.port 2).run.lastFailure = some .noGrant ∧ x.activity = .retryWait ∧
      x.tallies.framesAccepted = 1 ∧ x.tallies.foreign = 1 ∧ y.activity = .bidding ∧ y.tx = some .bid ∧
      y.run.started = 2 ∧ y.peer.bidsSpent = 0 := by decide +kernel

/-- No head is taken by a port with a suspended run, or one whose ending waits, by one that serves, by a PEER port with a
claim listed or on its way, or in STOPPING. -/
theorem test_meets_HeadTakingBeginsRun_not_free :
    let q := ((slotOf 4 fun x => { x with state := .queued, order := { fetchOrder with port := 2 } }).setQueue 2 [4])
    let on (f : Port → Port) : Part := q.onPort 2 f
    let run := { fetchRun 1 with suspended := true }
    (q.headStep 2).isSome = true ∧ (on fun x => { x with run := run, activity := .grantedOut }).headStep 2 = none ∧
      (on fun x => { x with run := { fetchRun 1 with ending := some ⟨0, 0⟩ } }).headStep 2 = none ∧
      (on fun x => { x with activity := .replying }).headStep 2 = none ∧
      (q.setClaimList 0 [⟨.port 2, .shared, 0, 1, true⟩]).headStep 2 = none ∧
      ({ q with inbox := [.leave 2] } : Part).headStep 2 = none ∧
      ({ q with engine := .stopping } : Part).headStep 2 = none := by decide +kernel

theorem test_meets_HeadTakingBeginsRun :
    let m := (slotOf 4 fun x => { x with state := .queued, order := fetchOrder }).setQueue 0 [4, 5]
    let k := (slotOf 4 fun x => { x with state := .queued, order := { fetchOrder with kind := 0x13 } }).setQueue 0 [4]
    let q := (slotOf 4 fun x => { x with state := .queued, order := { fetchOrder with port := 2 } }).setQueue 2 [4]
    m.engine = .running ∧ m.portFree 0 = true ∧ m.queue 0 = [4, 5] ∧ isStore (m.slot 4).order.kind = false ∧
      (m.portSetup 0).role = 1 ∧ k.portFree 0 = true ∧ isStore (k.slot 4).order.kind = true ∧ q.portFree 2 = true ∧
      (q.portSetup 2).role = 3 := by decide +kernel

/-- While the line holdoff runs the request of a head taken waits. -/
theorem test_meets_HeadTakingBeginsRun_holdoff :
    let m := ((slotOf 4 fun x => { x with state := .queued, order := fetchOrder }).setQueue 0 [4]).onPort 0 fun x =>
      { x with holdoff := true }
    m.portFree 0 = true ∧ (m.port 0).holdoff = true ∧
      (((m.headStep 0).getD m).port 0).activity = .sending ∧ (((m.headStep 0).getD m).port 0).tx = none := by
  decide +kernel

/-- Port 2 with a frame that lacks its last byte. -/
def atPeer (kind tag : Byte) (body : List Byte) (f : Port → Port) : State :=
  portOf 2 fun x => f (receiving (lacksLast 9 kind tag body) x)

/-- A BID, a GRANT and a request reach the PEER port: granted, yielded to (the partner's station is the lower), sending
begun, dropped and taken. -/
theorem test_meets_PeerFramesGrantYieldOrDrop :
    let bidding (x : Port) : Port := { x with activity := .bidding, run := fetchRun 1 }
    let granted (x : Port) : Port := { x with activity := .grantedOut, peer := { x.peer with grantPhase := .granted } }
    let port (kind tag : Byte) (body : List Byte) (f : Port → Port) :=
      (after (arrival 2 (lastByte 9 kind tag body) false) (atPeer kind tag body f)).part.port 2
    (atPeer 0x21 5 [] id).completesFrame 2 (levelsOf (lastByte 9 0x21 5 [])) false (frameOf 9 0x21 5 []) ∧
      (running.portSetup 2).role = 3 ∧ (running.portSetup 2).partnerStation.toNat < (running.portSetup 2).ownStation.toNat ∧
      (port 0x21 5 [] id).activity = .grantedOut ∧ (port 0x21 5 [] bidding).run.suspended = true ∧
      (port 0x21 5 [] bidding).tallies.bidsLost = 1 ∧ (port 0x22 7 [] bidding).activity = .sending ∧
      (port 0x22 8 [] bidding).tallies.foreign = 1 ∧ (port 0x16 5 [] id).tallies.droppedUnbid = 1 ∧
      (port 0x16 5 [] fun x => { x with activity := .serving }).tallies.droppedBusy = 1 ∧
      (port 0x16 5 [] granted).activity = .turnaround := by
  simp only [State.completesFrame, State.takesCharacter]; decide +kernel

theorem test_meets_PeerFramesGrantYieldOrDrop_rest :
    let s := portOf 2 fun x => { receiving (lacksLast 255 0x16 5 []) x with
      activity := .grantedOut, peer := { x.peer with grantPhase := .granted } }
    let m := (portOf 2 fun x => { x with run := { fetchRun 1 with suspended := true } }).part
    s.completesFrame 2 (levelsOf (lastByte 255 0x16 5 [])) false (frameOf 255 0x16 5 []) ∧
      ((after (arrival 2 (lastByte 255 0x16 5 []) false) s).part.port 2).tallies.droppedFormat = 1 ∧
      ((atPeer 0x20 7 [] fun x => { x with activity := .awaiting, run := fetchRun 1 }).part.port 2).activity = .awaiting ∧
      isRequestFrame 0x20 = true ∧ (m.port 2).run.work ≠ none ∧ (m.port 2).run.suspended = true ∧
      (m.port 2).activity = .idle := by
  simp only [State.completesFrame, State.takesCharacter]; decide +kernel

/-- Slot 15 TAKEN with its period timer running. -/
def periodic : Part := slotOf 15 fun x => { x with state := .taken, periodTimer := true }

/-- The slot manager waits for room in a full exchange write queue. -/
def waitsForRoom (m : Part) : Part :=
  { m with xq := List.replicate 24 ⟨[⟨0x1004, [0]⟩]⟩, waiters := [⟨.slotManager, 0⟩] }

/-- The part word of a post waits for room. -/
def periodicBehindPost : Part := waitsForRoom { periodic with jobs := [⟨.postWord 3, 0⟩] }

/-- A follower's completion in a delivery tree waits for room. -/
def periodicBehindTree : Part :=
  waitsForRoom { (periodic.onSlot 4 fun x => { x with state := .taken }) with tree := [.failed 4] }

/-- In STOPPING, with a run in progress at port 0. -/
def periodicStopping : Part :=
  (periodic.onPort 0 fun x => { x with activity := .awaiting, run := fetchRun 1 }).enterStopping

/-- Host software is ABSENT. -/
def periodicAbsent : Part := { periodic with sweep := { periodic.sweep with presence := .absent } }

/-- The expiry triggers in RUNNING while PRESENT, also while a post's entry waits; it is ignored while ABSENT and in
STOPPING; and it is held behind a delivery tree. -/
theorem test_meets_PeriodExpiryTriggersUnlessSuppressed :
    let slotAfter (m : Part) : Slot := (after (.periodExpiry 15) (inState m)).part.slot 15
    periodic.engine.working = true ∧ (periodic.slot 15).periodTimer = true ∧ (periodic.slot 14).periodTimer = false ∧
      State.reset.part.engine.working = false ∧
      periodic.tree = [] ∧ periodic.engine = .running ∧ periodic.sweep.presence = .present ∧
      (slotAfter periodic).state = .active ∧
      periodicBehindPost.tree = [] ∧ (slotAfter periodicBehindPost).state = .active ∧
      periodicAbsent.sweep.presence = .absent ∧ (slotAfter periodicAbsent).state = .taken ∧
      periodicStopping.engine = .stopping ∧ (slotAfter periodicStopping).state = .taken ∧
      periodicBehindTree.tree ≠ [] ∧ (slotAfter periodicBehindTree).state = .taken ∧
      (after (.periodExpiry 15) (inState periodicBehindTree)).part.jobs = [⟨.expiry 15, 1⟩] := by decide +kernel

theorem test_meets_PeriodExpiryTriggersUnlessSuppressed_settled :
    periodic.settled 0x1000 ∧ periodicBehindPost.settled 0x1000 ∧ periodicAbsent.settled 0x1000 ∧
      periodicStopping.settled 0x1000 ∧ periodicBehindTree.settled 0x1000 := by
  simp only [Part.settled]; decide +kernel

/-- A claim of port 1 waits behind a granted claim of port 0. -/
def twoClaims (f : Port → Port) : Part :=
  (running.onPort 1 f).setClaimList 0 [⟨.port 0, .shared, 0, 10, true⟩, ⟨.port 1, .exclusive, 5, 1, false⟩]

theorem test_meets_ClaimWaitLimitEndsTransaction :
    let m := twoClaims fun x => { x with activity := .serving, answerDelay := true }
    let k (a : Activity) := twoClaims fun x => { x with activity := a, run := fetchRun 0 }
    m.inbox = [] ∧ m.waits .claimUnit = false ∧ m.hasRoom = true ∧ m.waitLimitRuns 1 = true ∧ m.claimTable 1 = some 0 ∧
      (m.port 1).activity = .serving ∧ (m.port 1).service.broadcast = false ∧
      ((after (.claimWaitLimitExpiry 1) (inState m)).part.port 1).activity = .turnaround ∧
      ((k .preparing).port 1).activity = .preparing ∧ ((k .depositing).port 1).run.work = some ⟨4, fetchOrder⟩ ∧
      ((after (.claimWaitLimitExpiry 1) (inState (k .depositing))).part.port 1).fault.kind = .claimTimeout ∧
      (after (.claimWaitLimitExpiry 1) (inState m)).part.claimList 0 = [⟨.port 0, .shared, 0, 10, true⟩] := by
  decide +kernel

/-- The leave grants a pending hold, or another port's claim. -/
theorem test_meets_ClaimWaitLimitEndsTransaction_grants :
    let m (l : List Claim) := (running.onPort 1 fun x => { x with activity := .serving }).setClaimList 0
      (⟨.port 1, .exclusive, 5, 1, false⟩ :: l)
    let t (l : List Claim) := (after (.claimWaitLimitExpiry 1) (inState (m l))).part
    ((t [⟨.hold, .hold, 0, 100, false⟩]).table 0).holdState = .held ∧ (t [⟨.hold, .hold, 0, 100, false⟩]).xq.length = 1 ∧
      (t [⟨.port 0, .shared, 0, 10, false⟩]).claimList 0 = [⟨.port 0, .shared, 0, 10, true⟩] := by decide +kernel

/-- An expiry that finds the claim unit busy waits its turn, and one of a granted claim has no effect. -/
theorem test_meets_ClaimWaitLimitEndsTransaction_in_turn :
    let m (granted : Bool) : Part := { (running.setClaimList 7 [⟨.port 1, .exclusive, 5, 1, granted⟩]) with
      inbox := [.stored 0], waiters := [⟨.claimUnit, 0⟩] }
    let t (granted : Bool) := (after (.claimWaitLimitExpiry 1) (inState (m granted))).part.inbox
    t false = [.stored 0, .expire 1] ∧ t true = [.stored 0] := by decide +kernel

theorem test_meets_PostsFollowSlotState :
    let m : Part := { running with sweep := { running.sweep with word := 0x00050001 } }
    m.sweep.word.extractLsb' 16 16 ≠ (m.slot 0).seenPost ∧ m.sweep.word.extractLsb' 0 8 = 1 ∧
      (m.slot 15).state.partOwned = false ∧ m.engine = .running ∧
      ((slotOf 0 fun x => { x with state := .active }).slot 0).state.partOwned = true ∧
      (0x00050002 : Word).extractLsb' 0 8 = 2 ∧ (0x00050003 : Word).extractLsb' 0 8 ≠ 1 ∧
      (0x00050003 : Word).extractLsb' 0 8 ≠ 2 ∧ running.sweep.word.extractLsb' 16 16 = (running.slot 0).seenPost := by
  decide +kernel

/-- A withdrawn slot's QUEUED follower is marked at the post; orders rejected, taken and triggered, and taken as a
repeating follower. -/
theorem test_meets_PostsFollowSlotState_orders :
    let w : Part := { (slotOf 0 fun x => { x with state := .taken }).onSlot 1 (fun x =>
        { x with state := .queued, order := { fetchOrder with follows := 0 } }) with
      sweep := { running.sweep with word := 0x00050002 } }
    let p := slotOf 0 fun x => { x with state := .taken, order := { fetchOrder with period := 5 } }
    ((w.handPost 0x1000 0).slot 1).brokenMark = true ∧ (w.handPost 0x1000 0).tree = [.word 0, .left 1] ∧
      running.orderCheck 4 { fetchOrder with port := 4 } = some 0x21 ∧
      ((running.armPost 4 { fetchOrder with port := 4 }).slot 4).state = .rejected ∧
      running.orderCheck 4 fetchOrder = none ∧ (running.armPost 4 fetchOrder).queue 0 = [4] ∧
      p.orderCheck 4 { fetchOrder with follows := 0 } = none ∧
      ((p.armPost 4 { fetchOrder with follows := 0 }).slot 4).repeatFlag = true ∧
      (({ running with engine := .stopping } : Part).armPost 4 fetchOrder).jobs = [⟨.postWord 4, 0⟩] := by decide +kernel

theorem test_meets_TriggerFollowsTable :
    ((slotOf 3 fun x => { x with state := .taken }).slot 3).state = .taken ∧
      (slotOf 3 fun x => { x with state := .active, owed := true, overruns := 0xFFFF }).trigger 3 =
        (slotOf 3 fun x => { x with state := .active, owed := true, overruns := 0xFFFF }) ∧
      (running.slot 3).state.partOwned = false := by decide +kernel

theorem test_meets_CompletionFollowsTable :
    let c : Completion := ⟨0, 0, 1, 7, zeroReply, .none⟩
    let x : Slot := { Slot.reset with state := .active, order := { fetchOrder with period := 100 }, owed := true }
    x.repeating = true ∧ (completedSlot x c 5).state = .queued ∧ (completedSlot { x with owed := false } c 5).state = .taken ∧
      (completedSlot { x with order := fetchOrder } c 5).state = .done ∧
      (completedSlot { x with brokenMark := true } c 5).state = .done ∧
      (completedSlot x { c with outcome := 0x17 } 5).state = .failed ∧
      (completedSlot { x with withdrawMark := true } { c with outcome := 0x17 } 5).state = .withdrawn ∧
      (completedSlot x { c with outcome := 0x16, chain := .predecessorFailed } 5).state = .taken ∧
      (completedSlot x { c with outcome := 0x16, chain := .predecessorLeft } 5).state = .failed := by decide +kernel

/-- R30, R37, Table 1-8: the period timer of an order that stays part-owned runs on, and the broken mark is cleared also
where the withdraw mark decides; a completion STOPPED leaves it (log 25). -/
theorem test_meets_CompletionFollowsTable_timer_and_mark :
    let c : Completion := ⟨0, 0, 1, 7, zeroReply, .none⟩
    let x : Slot := { Slot.reset with
      state := .active, order := { fetchOrder with period := 100 }, periodTimer := true, brokenMark := true }
    (completedSlot { x with brokenMark := false } c 5).state = .taken ∧
      (completedSlot { x with brokenMark := false } c 5).periodTimer = true ∧ (completedSlot x c 5).periodTimer = false ∧
      (completedSlot { x with withdrawMark := true } { c with outcome := 0x17 } 5).brokenMark = false ∧
      (completedSlot x { c with outcome := 0x17 } 5).brokenMark = true := by decide +kernel

theorem test_meets_FollowsAndPeriodChecks :
    running.orderCheck 4 { fetchOrder with remoteTable := 7, follows := 0xFF, period := 0 } = none ∧
      running.orderCheck 4 { fetchOrder with follows := 15 } = none ∧
      running.orderCheck 4 { fetchOrder with follows := 16 } = some 0x28 ∧
      running.orderCheck 4 { fetchOrder with follows := 4 } = some 0x28 ∧
      running.orderCheck 4 { fetchOrder with follows := 0, period := 1 } = some 0x29 ∧
      ((slotOf 3 fun x => { x with state := .taken, order := { fetchOrder with follows := 4 } }).orderCheck 4
        { fetchOrder with follows := 3 }) = some 0x2A := by decide +kernel

/-- Table 1-5, one order that fails each step before the follows check. -/
theorem test_meets_FollowsAndPeriodChecks_steps :
    running.orderCheck 4 { fetchOrder with port := 1 } = some 0x21 ∧
      running.orderCheck 4 { fetchOrder with kind := 0x18 } = some 0x22 ∧
      running.orderCheck 4 { fetchOrder with station := 255 } = some 0x23 ∧
      running.orderCheck 4 { fetchOrder with port := 2 } = some 0x23 ∧
      running.orderCheck 4 { fetchOrder with count := 121 } = some 0x24 ∧
      running.orderCheck 4 { fetchOrder with localIndex := 98 } = some 0x25 ∧
      running.orderCheck 4 { fetchOrder with remoteTable := 8 } = some 0x26 ∧
      running.orderCheck 4 { fetchOrder with retries := 8 } = some 0x27 ∧
      running.orderCheck 4 { fetchOrder with localIndex := 97 } = none := by decide +kernel

/-- A walk that reaches slot 4 from slot 3 through slot 15, and the chain whose walk ends at slot 0. -/
theorem test_meets_FollowsAndPeriodChecks_walk :
    let m (k : Byte) := (slotOf 3 fun x => { x with state := .taken, order := { fetchOrder with follows := 15 } }).onSlot 15
      fun x => { x with state := .active, order := { fetchOrder with follows := k } }
    let walk (i : Nat) : SlotNo := if i = 0 then 3 else if i = 1 then 15 else 4
    (m 4).orderCheck 4 { fetchOrder with follows := 3 } = some 0x2A ∧ walk 0 = 3 ∧ walk 2 = 4 ∧
      (∀ i, i < 2 → ((m 4).slot (walk i)).state.partOwned = true ∧ ((m 4).slot (walk i)).order.follows ≠ 0xFF ∧
        walk (i + 1) = Fin.ofNat 16 ((m 4).slot (walk i)).order.follows.toNat) ∧
      (m 0).orderCheck 4 { fetchOrder with follows := 3 } = none := by decide +kernel

theorem test_meets_PresenceFollowsHostMark :
    let m (mark : Option Word) (count : Byte) (p : Presence) : Part :=
      { running with sweep := { running.sweep with markRead := 8, lastMark := mark, silence := count, presence := p } }
    (m none 0 .present).sweep.lastMark = none ∧ (m (some 7) 3 .present).evaluatePresence.sweep.silence = 0 ∧
      (m (some 8) 3 .present).evaluatePresence.sweep.silence = 4 ∧
      (m (some 8) 4 .present).evaluatePresence.sweep.presence = .absent ∧
      (m (some 8) 4 .present).evaluatePresence.causes = 4 ∧
      (m (some 8) 5 .absent).evaluatePresence.sweep.silence = 5 ∧
      (m (some 7) 5 .absent).evaluatePresence.sweep.presence = .present ∧
      GlobalSetup.reset.silenceLimit = 0 := by decide +kernel

theorem test_meets_GlobalAndPortSetupChecks :
    wordAt [0x6A, 0x41, 0, 0, 1, 0, 1] 0 = 0x0000416A ∧ wordAt [0x6B, 0x41, 0, 0, 1, 0, 1] 0 ≠ 0x0000416A ∧
      setupCheck 0x1000 running.setup = 0 ∧
      setupCheck 0x1000 { running.setup with ports := ports.set 1 { ports[1] with gapLimit := 16 } } = 4 ∧
      portSetupFails { ports[1] with gapLimit := 15 } = false ∧ portSetupFails { ports[1] with gapLimit := 1 } = true ∧
      portSetupFails { ports[0] with replyTimeout := 5000 } = false ∧
      portSetupFails { ports[0] with replyTimeout := 5001 } = true ∧
      portSetupFails { ports[2] with bidLimit := 32 } = true ∧ portSetupFails { ports[2] with partnerStation := 9 } = true ∧
      setupCheck 0x2000 running.setup = 15 ∧
      setupCheck 0x1000 { running.setup with tables := tables.set 7 ⟨1, 0, 2, 0, 0x5001, 1⟩ } = 14 ∧
      tableEntryFails ⟨1, 1, 2, 0, 0xFFFFFFFF, 8⟩ = false ∧ tableEntryFails ⟨1, 1, 2, 0, 0xFFFFFFFF, 9⟩ = true ∧
      overlapFails 0x1000 (tables.set 7 ⟨1, 0, 2, 0, 0x20C8, 1⟩) = false ∧
      overlapFails 0x1000 (tables.set 7 ⟨1, 0, 2, 0, 0x20C6, 1⟩) = true := by decide +kernel

/-- The reads of LOADING: each phase, the last setup read of a candidate that passes and of one that fails. -/
theorem test_meets_GlobalAndPortSetupChecks_reads :
    let m (k : LoadPhase) (c : Setup) : Part :=
      { running with engine := .loading, loader := { Loader.reset with phase := k, candidate := c } }
    ((m (.setupRead 0) Setup.reset).loaderReadDone 0x1000 []).loader.phase = .setupRead 1 ∧
      ((m (.setupRead 4) Setup.reset).loaderReadDone 0x1000 []).loader.phase = .setupRead 5 ∧
      ((m (.setupRead 12) running.setup).loaderReadDone 0x1000 []).loader.phase = .adoptRead 0 ∧
      ((m (.setupRead 12) Setup.reset).loaderReadDone 0x1000 []).setupError = 1 ∧
      ((m (.setupRead 12) Setup.reset).loaderReadDone 0x1000 []).engine = .stopped ∧
      ((m (.adoptRead 15) Setup.reset).loaderReadDone 0x1000 []).loader.phase = .adoptRead 16 ∧
      ((m (.adoptRead 23) running.setup).loaderReadDone 0x1000 []).setup = running.setup := by decide +kernel

theorem test_meets_ConflictAndBitWrite :
    1 ≤ (⟨.port 0, .exclusive, 3, 1, true⟩ : Claim).count ∧ 15 < 8 * 2 ∧ ¬(16 < 8 * 2) := by decide

/-- A port's claim granted at its arrival, its access started, and one that waits. -/
theorem test_meets_ConflictFollowsRanges_arrival :
    let m (l : List Claim) (t : TableNo) : Part :=
      { (running.onPort 1 fun x => { x with activity := .serving, service := { x.service with kind := 0x11 } }) with
        claims := running.claims.set t l, inbox := [.arrive 1 t .shared 5 2] }
    let t (l : List Claim) (k : TableNo) := ((m l k).claimStep 0x1000).getD running
    let held : Claim := ⟨.hold, .hold, 0, 100, true⟩
    (m [] 0).waits .claimUnit = false ∧ (t [] 0).claimList 0 = [⟨.port 1, .shared, 5, 2, true⟩] ∧
      ((t [] 0).port 1).memStep = .read ∧ (t [held] 7).claimList 7 = [held, ⟨.port 1, .shared, 5, 2, false⟩] ∧
      (t [held] 7).waitLimitRuns 1 = true ∧ ((t [held] 7).port 1).access = none := by decide +kernel

/-- A deposit of 10 elements at element 3 of the BITS table reads both edge bytes; one of 8 at element 0 reads none; one of
10 at element 0 reads the last alone; words are written at once. -/
theorem test_meets_BitWriteKeepsBitsOutsideRange :
    let m (first count table kind : Byte) := (portOf 0 fun x => { x with
      activity := .depositing, dataHold := [0, 0, 0, 0, 0, 1, 2]
      run := { fetchRun 1 with work := some ⟨4, { fetchOrder with
        kind := kind, localTable := table, localIndex := first.zeroExtend 16, count := count.zeroExtend 16 }⟩ } }).part
    (((m 3 10 1 0x12).claimGranted 0).port 0).memStep = .edgeFirst ∧
      (((m 0 10 1 0x12).claimGranted 0).port 0).memStep = .edgeLast ∧
      (((m 0 8 1 0x12).claimGranted 0).port 0).access = some (.write 0x3000 [1]) ∧
      (((m 5 1 0 0x11).claimGranted 0).port 0).access = some (.write 0x200A [1, 2]) ∧
      ((((m 3 10 1 0x12).onPort 0 fun x => { x with memStep := .edgeFirst }).portAccessDone 0 [0xFF]).port 0).memStep =
        .edgeLast ∧
      ((((m 3 4 1 0x12).onPort 0 fun x => { x with memStep := .edgeFirst }).portAccessDone 0 [0xFF]).port 0).memStep =
        .span ∧
      ((((m 3 10 1 0x12).onPort 0 fun x => { x with memStep := .edgeLast }).portAccessDone 0 [0xFF]).port 0).memStep =
        .span := by decide +kernel

theorem test_meets_AnsweredBurstAdvancesAccess :
    let m := { (running.onPort 1 fun x => { x with access := some (.read 0x2010 90 []) }) with
      bus := some ⟨.port 1, 0x2010, 48, false, 8⟩ }
    m.bus = some ⟨.port 1, 0x2010, 48, false, 8⟩ ∧ (m.port 1).access = some (.read 0x2010 90 []) ∧ 48 < 90 ∧
      writerBurst.xq = [⟨[⟨0x1004, [1, 2, 3]⟩]⟩] ∧ writerBurst.bus = some ⟨.writer, 0x1004, 3, false, (answerOf 8).event⟩ := by
  decide +kernel

/-- The end of an access: of a store order's read, of a deposit, and of a responder's fetch, store and modify. -/
theorem test_meets_AnsweredBurstAdvancesAccess_ends :
    let w : Work := ⟨4, { fetchOrder with kind := 0x13 }⟩
    let m (s : MemStep) (a : Activity) (kind : Byte) := (portOf 0 fun x => { x with
      memStep := s, activity := a, run := { fetchRun 0 with work := some w }
      service := { x.service with kind := kind, index := 2, count := 1, andMask := 0x00FF, orMask := 0x1200 } }).part
    (((m .read .preparing 0).portAccessDone 0 [1, 2]).port 0).activity = .sending ∧ isStore w.order.kind = true ∧
      (((m .read .preparing 0).claimGranted 0).port 0).access = some (.read 0x2014 6 []) ∧
      (((m .span .depositing 0).portAccessDone 0 []).port 0).activity = .idle ∧
      (((m .read .serving 0x11).portAccessDone 0 [1, 2]).port 0).activity = .replying ∧
      (((m .none .serving 0x11).claimGranted 0).port 0).access = some (.read 0x2004 2 []) ∧
      ((m .span .serving 0x13).portAccessDone 0 []).inbox = [.stored 0] ∧
      (((m .none .serving 0x15).claimGranted 0).port 0).memStep = .modifyRead ∧
      (((m .modifyRead .serving 0x15).portAccessDone 0 [0x34, 0x56]).port 0).access = some (.write 0x2004 [0x34, 0x12]) := by
  decide +kernel

/-- Bursts of the sweep unit, in RUNNING and LOADING, the last and another; of an entry of two pieces, and of a part of a
piece. -/
theorem test_meets_AnsweredBurstAdvancesAccess_sweep_and_entries :
    let m (e : EngineState) (left : Nat) : State := inState { running with
      engine := e, sweep := { running.sweep with phase := .mark }
      loader := { Loader.reset with phase := if e = .loading then .setupRead 0 else .idle }
      sweepAccess := some (.read 0x1000 left []), bus := some ⟨.sweep, 0x1000, 4, false, 8⟩ }
    let w (len : Nat) : State := inState { running with
      xq := [⟨[⟨0x143C, [1, 2, 3, 4, 5, 6]⟩, ⟨0x1424, [7]⟩]⟩], bus := some ⟨.writer, 0x143C, len, false, 8⟩ }
    let run (s : State) := after (.burstAnswered (answerOf 8)) s
    (m .running 4).part.bus = some ⟨.sweep, 0x1000, 4, false, 8⟩ ∧ (run (m .running 4)).part.sweep.phase = .slot 0 ∧
      (run (m .running 5)).part.sweepAccess = some (.read 0x1004 1 [0, 0, 0, 0]) ∧
      (run (m .loading 4)).part.loader.phase = .setupRead 1 ∧
      (run (w 4)).part.xq = [⟨[⟨0x1440, [5, 6]⟩, ⟨0x1424, [7]⟩]⟩] ∧ (run (w 4)).memory.length = 4 ∧
      (run (w 6)).part.xq = [⟨[⟨0x1424, [7]⟩]⟩] ∧ (run (w 6)).memory.length = 6 := by decide +kernel

theorem test_meets_BusErrorsFaultEngineOrEndRun :
    let m (a : Activity) := { (running.onPort 0 fun x => { x with
        access := some (.read 0x2014 6 []), activity := a, run := fetchRun 0, answerDelay := true }) with
      bus := some ⟨.port 0, 0x2014, 6, false, 8⟩ }
    writerBurst.bus = some ⟨.writer, 0x1004, 3, false, 8⟩ ∧ (⟨.writer, 0x1004, 3, false, 8⟩ : Burst).discarded = false ∧
      ((m .preparing).port 0).access = some (.read 0x2014 6 []) ∧ ((m .preparing).port 0).activity = .preparing ∧
      ((m .preparing).port 0).run.work = some ⟨4, fetchOrder⟩ ∧ ((m .serving).port 0).service.broadcast = false ∧
      (after .busError (inState writerBurst)).part.engine = .faulted ∧
      ((after .busError (inState (m .preparing))).part.port 0).fault.kind = .busError ∧
      ((after .busError (inState (m .serving))).part.port 0).activity = .turnaround ∧
      ((after .busError (inState (m .serving))).part.port 0).fault.reason = 8 := by decide +kernel

theorem test_meets_BusIsGrantedInRotation :
    let m : Part := { writerBurst with bus := none, pointer := .port 2 }
    (∀ who, Part.reset.pendingBurst who = none) ∧ m.bus = none ∧
      [Requester.sweep, .port 0, .port 1, .port 2, .port 3, .writer] =
        [.sweep, .port 0, .port 1] ++ [.port 2, .port 3, .writer] ∧
      ([.port 2, .port 3, .writer] ++ [.sweep, .port 0, .port 1] : List Requester) =
        [.port 2, .port 3] ++ .writer :: [.sweep, .port 0, .port 1] ∧
      (∀ w ∈ [Requester.port 2, .port 3], m.pendingBurst w = none) ∧ m.pendingBurst .writer = some (0x1004, 3) := by
  refine ⟨?_, rfl, rfl, rfl, ?_, ?_⟩
  · intro who
    cases who with
    | sweep => rfl
    | port p => exact (by decide +kernel : ∀ p, Part.reset.pendingBurst (.port p) = none) p
    | writer => rfl
  · decide +kernel
  · decide +kernel

/-- Bursts at a 64-byte boundary: one that ends before it, at it, and one that would cross it. -/
theorem test_meets_BusIsGrantedInRotation_bursts :
    let m (a : Access) := { (running.onPort 1 fun x => { x with access := some a }) with sweepAccess := some a }
    (m (.read 0x203F 1 [])).pendingBurst (.port 1) = some (0x203F, 1) ∧
      (m (.read 0x203F 2 [])).pendingBurst .sweep = some (0x203F, 1) ∧
      (m (.read 0x2040 100 [])).pendingBurst (.port 1) = some (0x2040, 64) ∧
      (m (.write 0x203C [1, 2, 3, 4])).pendingBurst (.port 1) = some (0x203C, 4) ∧
      running.pendingBurst .writer = none ∧
      ({ running with xq := [⟨[⟨0x103E, [1, 2, 3]⟩]⟩] } : Part).pendingBurst .writer = some (0x103E, 2) := by decide +kernel

/-- Exchange-area addresses, at the last byte below the top of the address space. -/
theorem test_meets_areaAddress :
    (0xFFFFFF00 : Word).toNat + 0xFF < 2 ^ 32 ∧ areaAddress 0xFFFFFF00 0xFF = 0xFFFFFFFF ∧
      ¬((0xFFFFFF00 : Word).toNat + 0x100 < 2 ^ 32) := by decide +kernel

/-- The claim unit takes an expiry: a claim that waits leaves and its run ends, with the entry of a hold that it grants at
once, after a wait, or at its command; a granted claim stays. -/
theorem test_meets_StoreIsRecordedWithRoom_expiry :
    let m (n : Nat) (granted : Bool) (l : List Claim) : Part :=
      { ((running.onPort 1 fun x => { x with activity := .preparing, run := fetchRun 1 }).setClaimList 0
          (⟨.port 1, .exclusive, 5, 1, granted⟩ :: l)) with inbox := [.expire 1], xq := List.replicate n ⟨[]⟩ }
    let hold : List Claim := [⟨.hold, .hold, 0, 100, false⟩]
    let run (x : Part) := (x.claimStep 0x1000).getD running
    let s := inState { m 0 false hold with waiters := [⟨.claimUnit, 0⟩] }
    ((run (m 24 false [])).port 1).activity = .idle ∧ (run (m 24 false [])).claimList 0 = [] ∧
      (run (m 24 false hold)).waiters = [⟨.claimUnit, 0⟩] ∧ (run (m 23 false hold)).xq.length = 24 ∧
      ((run (m 23 false hold)).table 0).holdState = .held ∧ (run (m 24 true hold)).claimList 0 = (m 0 true hold).claimList 0 ∧
      (run (m 24 true hold)).inbox = [] ∧ ((after .deferredTableRecordEntry s).part.port 1).fault.kind = .claimTimeout ∧
      (after .deferredTableRecordEntry s).part.xq.length = 2 := by decide +kernel

/-- Jobs and tasks with room at once, at the last place, with none left, and while the slot manager waits. -/
theorem test_meets_SlotManagerGoesOnWithRoom_at_once :
    let m (n : Nat) (w : List Waiter) (jobs : List Job) : Part :=
      { running with xq := List.replicate n ⟨[]⟩, waiters := w, jobs := jobs }
    let post : Job := ⟨.postWord 15, 2⟩
    let run (x : Part) := (x.jobStep 0x1000).getD running
    let t (n : Nat) (w : List Waiter) : Part :=
      { m n w [] with tree := [.word 3], eventNo := 5 }
    (run (m 23 [] [post])).xq.length = 24 ∧ (run (m 24 [] [post])).waiters = [⟨.slotManager, 2⟩] ∧
      (run (m 22 [⟨.claimUnit, 1⟩] [post])).xq.length = 23 ∧
      (run (m 23 [⟨.claimUnit, 1⟩] [post])).waiters = [⟨.claimUnit, 1⟩, ⟨.slotManager, 2⟩] ∧
      (m 0 [⟨.slotManager, 1⟩] [post]).jobStep 0x1000 = none ∧
      (run (m 24 [⟨.slotManager, 1⟩] [post, ⟨.expiry 3, 4⟩])).jobs = [post] ∧ (run (m 24 [] [⟨.expiry 3, 4⟩])).jobs = [] ∧
      (((t 23 []).treeStep 0x1000).getD running).xq.length = 24 ∧
      (((t 24 []).treeStep 0x1000).getD running).waiters = [⟨.slotManager, 5⟩] ∧
      (t 0 [⟨.slotManager, 1⟩]).treeStep 0x1000 = none := by decide +kernel

theorem test_meets_SlotManagerGoesOnWithRoom :
    let r := { fetchRun 1 with ending := some ⟨0, 0⟩ }
    let m : Part := { (running.onPort 0 fun x => { x with run := r }) with jobs := [⟨.runEnding 0, 0⟩] }
    let s := inState { m with waiters := [⟨.claimUnit, 3⟩, ⟨.slotManager, 0⟩] }
    s.part.engine.working = true ∧ s.part.firstInLine .slotManager 0 ∧ s.part.tree = [] ∧
      s.part.jobs = [⟨.runEnding 0, 0⟩] ∧ (s.part.port 0).run.work = some ⟨4, fetchOrder⟩ ∧ r.ending = some ⟨0, 0⟩ ∧
      ((after .deferredRunCompletion s).part.slot 4).completions = 1 := by
  simp only [Part.firstInLine]; decide +kernel

theorem test_meets_SlotManagerGoesOnWithRoom_post_and_tree :
    let s := waiting .slotManager { running with jobs := [⟨.postWord 15, 0⟩] }
    let q := waiting .slotManager { running with jobs := [⟨.rejection 15 true, 0⟩] }
    let take (follows : Byte) := waiting .slotManager { slotOf 15 (fun x =>
      { x with state := .active, order := { fetchOrder with follows := follows } }) with jobs := [⟨.takeWord 15, 0⟩] }
    let shown (follows : Byte) : List (List Byte) :=
      (after .deferredPostEntry (take follows)).part.xq.flatMap fun e => e.pieces.map fun p => p.bytes.take 1
    let w := waiting .slotManager { running with tree := [.word 3] }
    let k := waiting .slotManager { slotOf 2 (fun x => { x with state := .taken }) with tree := [.failed 2] }
    let l := waiting .slotManager { slotOf 2 (fun x => { x with state := .taken }) with tree := [.left 2] }
    s.part.jobs = [⟨.postWord 15, 0⟩] ∧ (after .deferredPostEntry s).part.xq.length = 1 ∧
      shown 0xFF = [[2]] ∧ shown 3 = [[1]] ∧
      (after .deferredPostEntry q).part.causes = 1 ∧ (after .deferredPostEntry w).part.tree = [] ∧
      k.part.tree = [.failed 2] ∧ (k.part.slot 2).state = .taken ∧
      ((after .deferredDeliveryEntry k).part.slot 2).state = .failed ∧
      ((after .deferredDeliveryEntry l).part.slot 2).state = .failed := by decide +kernel

/-- An entry that stands behind period expiries is queued, and the expiries are then taken. -/
theorem test_meets_SlotManagerGoesOnWithRoom_behind_expiries :
    let before : List Job := [⟨.expiry 0, 2⟩, ⟨.expiry 15, 2⟩]
    let s := waiting .slotManager { running with jobs := before ++ [⟨.postWord 7, 1⟩] }
    s.part.firstInLine .slotManager 0 ∧ s.part.tree = [] ∧
      (∀ j ∈ before, j.kind = .expiry 0 ∨ j.kind = .expiry 15) ∧
      (after .deferredPostEntry s).part.xq.length = 1 ∧ (after .deferredPostEntry s).part.jobs = [] := by
  simp only [Part.firstInLine]; decide +kernel

/-- The claim unit has waited longer: a command that gives the slot manager room only passes. -/
theorem test_longest_waiter_goes_first :
    let s := inState { running with
      jobs := [⟨.postWord 15, 0⟩], inbox := [.stored 1], waiters := [⟨.slotManager, 3⟩, ⟨.claimUnit, 2⟩] }
    (after .deferredPostEntry s).part.xq = [] ∧ (after .deferredTableRecordEntry s).part.xq.length = 1 ∧
      givesRoomTo .deferredPostEntry = some .slotManager ∧ s.part.firstInLine .claimUnit 2 ∧
      ¬s.part.firstInLine .slotManager 3 := by
  simp only [Part.firstInLine]; decide +kernel

/-- Deliveries: a completion OK triggers a TAKEN follower; a withdrawn slot's QUEUED follower is marked; a failed one is
delivered; a TAKEN follower completes CHAIN_BROKEN. -/
theorem test_meets_CompletionQueuesResultThenPartWord :
    let m (mark : Bool) (s : SlotState) := (slotOf 0 fun x => { x with
      state := .active, order := fetchOrder, withdrawMark := mark }).onSlot 1 fun x =>
        { x with state := s, order := { fetchOrder with follows := 0 } }
    let c (o : Byte) : Completion := ⟨o, 0, 1, 7, zeroReply, .none⟩
    (((m false .taken).completeAndDeliver 0x1000 0 (c 0)).slot 1).state = .queued ∧
      (((m true .queued).completeAndDeliver 0x1000 0 (c 0)).slot 1).brokenMark = true ∧
      ((m true .queued).completeAndDeliver 0x1000 0 (c 0x10)).tree = [.failed 1, .left 1] ∧
      ((m false .taken).completeAndDeliver 0x1000 0 (c 0x10)).tree = [.failed 1] ∧
      ((m false .taken).slot 1).state = .taken ∧ (((m false .taken).doTask 0x1000 (.left 1)).slot 1).state = .failed ∧
      ((m false .queued).slot 1).state ≠ .taken ∧ running.waits .slotManager = false ∧ running.hasRoom = true := by
  decide +kernel

theorem test_meets_StoreIsRecordedWithRoom :
    let s := waiting .claimUnit { running with inbox := [.stored 1] }
    s.part.firstInLine .claimUnit 0 ∧ s.part.inbox = [.stored 1] ∧
      ((after .deferredTableRecordEntry s).part.table 0).storeTally = 1 ∧
      (after .deferredTableRecordEntry s).part.causes = 2 := by
  simp only [Part.firstInLine]; decide +kernel

/-- Changed hold posts: HELD on an empty list, PENDING behind a claim, no change beside a hold, FREE with and without a
hold. -/
theorem test_meets_StoreIsRecordedWithRoom_holds :
    let c : Claim := ⟨.port 0, .shared, 0, 10, true⟩
    let h : Claim := ⟨.hold, .hold, 0, 100, true⟩
    let s (l : List Claim) (wanted : Byte) := waiting .claimUnit
      { running.setClaimList 0 l with inbox := [.holdPost 0 wanted 5] }
    let t (l : List Claim) (wanted : Byte) := (after .deferredTableRecordEntry (s l wanted)).part
    (5 : Half) ≠ ((s [] 1).part.table 0).seenHold ∧ ((t [] 1).table 0).holdState = .held ∧ (t [] 1).claimList 0 = [h] ∧
      ((t [c] 1).table 0).holdState = .pending ∧ (t [c] 1).claimList 0 = [c, { h with granted := false }] ∧
      (t [h] 1).claimList 0 = [h] ∧ ((t [h] 1).table 0).seenHold = 5 ∧ (t [c] 0).claimList 0 = [c] ∧
      (t [h, { c with granted := false }] 0).claimList 0 = [c] ∧ ((t [c] 0).table 0).holdState = .free := by
  decide +kernel

/-- Inputs with room at once and with none: a store, a changed and an unchanged hold post, a release that grants a pending
hold and one that grants a port's claim. -/
theorem test_meets_StoreIsRecordedWithRoom_at_once :
    let hold : Claim := ⟨.hold, .hold, 0, 100, false⟩
    let mine : Claim := ⟨.port 1, .shared, 0, 10, true⟩
    let other : Claim := ⟨.port 0, .exclusive, 5, 1, false⟩
    let m (n : Nat) (l : List Claim) (i : ClaimInput) : Part :=
      { running.setClaimList 0 l with xq := List.replicate n ⟨[]⟩, inbox := [i] }
    let run (n : Nat) (l : List Claim) (i : ClaimInput) := ((m n l i).claimStep 0x1000).getD running
    ((run 23 [] (.stored 1)).table 0).storeTally = 1 ∧ (run 24 [] (.stored 1)).waiters = [⟨.claimUnit, 0⟩] ∧
      ((run 23 [] (.holdPost 7 1 5)).table 7).holdState = .held ∧
      (run 24 [] (.holdPost 7 1 5)).waiters = [⟨.claimUnit, 0⟩] ∧ (run 24 [] (.holdPost 7 1 0)).inbox = [] ∧
      (run 23 [mine, hold] (.leave 1)).xq.length = 24 ∧ ((run 23 [mine, hold] (.leave 1)).table 0).holdState = .held ∧
      (run 24 [mine, hold] (.leave 1)).waiters = [⟨.claimUnit, 0⟩] ∧
      (run 24 [mine, other] (.leave 1)).claimList 0 = [{ other with granted := true }] ∧
      ({ m 0 [mine] (.leave 1) with waiters := [⟨.claimUnit, 0⟩] } : Part).claimStep 0x1000 = none := by decide +kernel

/-- The sweep's entries with room at once and with none. -/
theorem test_meets_SweepQueuesReportsThenHeader_at_once :
    let m (n : Nat) (k : SweepPhase) : Part := { running.setSweepPhase k with xq := List.replicate n ⟨[]⟩ }
    let run (n : Nat) (k : SweepPhase) := ((m n k).sweepStep 0x1000).getD running
    (run 23 (.report 0)).sweep.phase = .report 1 ∧ (run 23 (.report 3)).sweep.phase = .header ∧
      (run 23 .header).sweep.count = 1 ∧ (run 24 .header).waiters = [⟨.sweepUnit, 0⟩] ∧
      (run 24 (.report 0)).xq.length = 24 := by decide +kernel

theorem test_meets_SweepQueuesReportsThenHeader :
    let s := waiting .sweepUnit (running.setSweepPhase (.report 3))
    let k := waiting .sweepUnit (running.setSweepPhase .header)
    s.part.sweep.phase = .report (3 : PortNo).val ∧ k.part.sweep.phase = .header ∧ k.part.sweep.pending = false ∧
      (after .deferredSweepEntry s).part.xq.length = 2 ∧ (after .deferredSweepEntry k).part.sweep.count = 1 := by
  decide +kernel

/-- The reading order of a sweep, at its first and last slot and table. -/
theorem test_meets_SweepQueuesReportsThenHeader_reads :
    let m (k : SweepPhase) := running.setSweepPhase k
    let sweepOf (k : SweepPhase) := ((m k).sweepStep 0x1000).map fun t => (t.sweep.phase, t.sweepAccess)
    ((m .mark).sweepReadDone 0x1000 []).sweepAccess = some (.read 0x1420 4 []) ∧
      ((m (.slot 15)).sweepReadDone 0x1000 [1, 2]).sweep.phase = .post 15 ∧ (m (.post 15)).tree = [] ∧
      ({ m (.post 15) with tree := [.left 0] } : Part).sweepStep 0x1000 = none ∧
      ((m (.order 0)).sweepReadDone 0x1000 [1, 2]).sweep.phase = .check 0 ∧
      sweepOf (.check 0) = some (.postWait 0, none) ∧
      sweepOf (.postWait 14) = some (.slot 15, some (.read 0x17E0 4 [])) ∧
      sweepOf (.postWait 15) = some (.hold 0, some (.read 0x110C 4 [])) ∧
      ({ m (.postWait 15) with jobs := [⟨.postWord 15, 0⟩] } : Part).sweepStep 0x1000 = none ∧
      ((m (.hold 7)).sweepReadDone 0x1000 [1, 0, 5, 0]).inbox = [.holdPost 7 1 5] ∧
      sweepOf (.holdWait 6) = some (.hold 7, some (.read 0x11EC 4 [])) ∧
      ({ m (.holdWait 7) with inbox := [.holdPost 7 1 5] } : Part).sweepStep 0x1000 = none := by decide +kernel

/-- A pending sweep starts behind the header, and not behind the last of STOPPING. -/
theorem test_meets_SweepQueuesReportsThenHeader_pending :
    let m (e : EngineState) (r : Run) := waiting .sweepUnit { (running.onPort 0 fun x => { x with run := r }) with
      engine := e, sweep := { running.sweep with phase := .header, pending := true } }
    let phase (e : EngineState) (r : Run) := (after .deferredSweepEntry (m e r)).part.sweep.phase
    (m .running Run.initial).part.firstInLine .sweepUnit 0 ∧ phase .running Run.initial = .mark ∧
      phase .stopping (fetchRun 1) = .mark ∧ phase .stopping Run.initial = .idle ∧
      ((m .stopping (fetchRun 1)).part.port 0).run.work ≠ none := by
  simp only [Part.firstInLine]; decide +kernel

theorem test_meets_EngineControlGoesOnWithRoom :
    let load (k : Nat) : Part :=
      { running with engine := .loading, loader := { Loader.reset with phase := .adopting k } }
    let s := waiting .engineControl (load (15 : SlotNo).val)
    let k := waiting .engineControl (load 28)
    let c := waiting .engineControl { running with engine := .stopped, clearPending := [3] }
    s.part.loader.phase = .adopting (15 : SlotNo).val ∧ k.part.loader.phase = .adopting 28 ∧
      k.part.loader.stopHeld = false ∧ c.part.clearPending = [3] ∧ c.part.loader.phase = .idle ∧
      (after .deferredAdoptionEntry k).part.engine = .running ∧
      (after .deferredClearTalliesEntry c).part.clearPending = [] := by decide +kernel

/-- The adoption entries of the first and last table and port, a held STOP, and the last entry of CLEAR_TALLIES with a
START waiting for it. -/
theorem test_meets_EngineControlGoesOnWithRoom_rest :
    let load (k : Nat) (held : Bool) := waiting .engineControl
      { running with engine := .loading, loader := { Loader.reset with phase := .adopting k, stopHeld := held } }
    let c (rest : List PortNo) := waiting .engineControl
      { running with engine := .loading, clearPending := 3 :: rest, loader := { Loader.reset with phase := .clearing } }
    let run (k : Nat) (held : Bool) := (after .deferredAdoptionEntry (load k held)).part
    (load 16 false).part.loader.phase = .adopting (16 + (0 : TableNo).val) ∧
      (load 23 false).part.loader.phase = .adopting (16 + (7 : TableNo).val) ∧
      (load 24 false).part.loader.phase = .adopting (24 + (0 : PortNo).val) ∧
      (load 27 false).part.loader.phase = .adopting (24 + (3 : PortNo).val) ∧
      (load 28 true).part.loader.stopHeld = true ∧ (run 28 true).engine = .stopping ∧ (run 28 false).engine = .running ∧
      (run 16 false).xq.head? = some ⟨[⟨0x1110, tableRecordBytes TableRecord.reset⟩]⟩ ∧
      (run 27 false).xq.head? = some ⟨[⟨0x12C0, reportBytes Tallies.zero FaultRecord.empty⟩]⟩ ∧
      (c [0]).part.clearPending = 3 :: [0] ∧ (c []).part.loader.phase = .clearing ∧
      (after .deferredClearTalliesEntry (c [])).part.loader.phase = .setupRead 0 := by decide +kernel

/-- The adoption and CLEAR_TALLIES with room at once and with none. -/
theorem test_meets_EngineControlGoesOnWithRoom_at_once :
    let m (n k : Nat) : Part := { running with
      engine := .loading, loader := { Loader.reset with phase := .adopting k }, xq := List.replicate n ⟨[]⟩ }
    let c (n : Nat) : Part := { running with engine := .stopped, clearPending := [2, 3], xq := List.replicate n ⟨[]⟩ }
    let run (n k : Nat) := ((m n k).adoptStep 0x1000).getD running
    (run 23 15).loader.phase = .adopting 16 ∧ (run 23 23).loader.phase = .adopting 24 ∧
      (run 23 27).loader.phase = .adopting 28 ∧ (run 23 28).sweep.phase = .mark ∧
      (run 24 28).waiters = [⟨.engineControl, 0⟩] ∧ (((c 23).clearStep 0x1000).getD running).clearPending = [3] ∧
      (((c 24).clearStep 0x1000).getD running).waiters = [⟨.engineControl, 0⟩] := by decide +kernel

/-- The stop sequence begins with nothing in flight and no sweep, passes what needs no entry, queues what does with room at
once, and waits for the other blocks. -/
theorem test_meets_StopSequenceGoesOnWithRoom_passes :
    let m (g : Option StopStage) (x : Run) (k : SweepPhase) : Part :=
      { ((slotOf 15 fun x => { x with state := .queued }).setClaimList 7 [⟨.hold, .hold, 0, 0, true⟩]).onPort 0
          (fun y => { y with run := x }) with
        engine := .stopping, stopSequence := g, sweep := { running.sweep with phase := k } }
    let next (g : StopStage) := (((m (some g) Run.initial .idle).stopStep 0x1000).getD running).stopSequence
    (((m none Run.initial .idle).stopStep 0x1000).getD running).stopSequence = some (.holds 0) ∧
      (m none (fetchRun 1) .idle).stopStep 0x1000 = none ∧ (m none Run.initial .header).stopStep 0x1000 = none ∧
      next (.holds 6) = some (.holds 7) ∧ next (.holds 7) = some (.holds 8) ∧ next (.holds 8) = some (.slots 0) ∧
      next (.slots 14) = some (.slots 15) ∧ next (.slots 15) = some (.slots 16) ∧ next (.slots 16) = some .header ∧
      (((m (some .header) Run.initial .idle).stopStep 0x1000).getD running).engine = .stopped ∧
      ({ m (some .header) Run.initial .idle with jobs := [⟨.postWord 0, 0⟩] } : Part).stopStep 0x1000 = none := by
  decide +kernel

theorem test_meets_StopSequenceGoesOnWithRoom :
    let m (g : StopStage) : Part :=
      { (slotOf 15 fun x => { x with state := .queued }).setClaimList 7 [⟨.hold, .hold, 0, 0, true⟩] with
        engine := .stopping, stopSequence := some g }
    let s := waiting .engineControl (m (.slots (15 : SlotNo).val))
    let h := waiting .engineControl (m (.holds (7 : TableNo).val))
    let k := waiting .engineControl (m .header)
    s.part.stopSequence = some (.slots (15 : SlotNo).val) ∧ (s.part.slot 15).state.partOwned = true ∧
      s.part.firstInLine .engineControl 0 ∧ h.part.claimList 7 = [⟨.hold, .hold, 0, 0, true⟩] ∧
      (after .deferredStopSequenceEntry h).part.claimList 7 = [] ∧
      k.part.stopSequence = some .header ∧ k.part.inbox = [] ∧ k.part.tree = [] ∧ k.part.jobs = [] ∧
      (after .deferredStopSequenceEntry k).part.engine = .stopped ∧
      (after .deferredStopSequenceEntry k).part.causes = 8 := by
  simp only [Part.firstInLine]; decide +kernel

/-- The laws hold in a state in which every block works, and a step from it answers a next state. -/
theorem test_meets_laws :
    let s : State := { inState (twoClaims fun x => { x with tx := some .answer, receiver := Receiver.hunting
                                                            silence := false }) with pending := [.sweepTimerExpiry] }
    s.part.quiet ∧ s.part.grantsAgree ∧ s.part.queueBounded ∧ s.part.heldInHunt ∧ s.part.faultCodeAgrees ∧
      s.part.pendingLaw ∧ s.part.presenceLaw ∧ s.baseAligned ∧ Memory.wf s.memory = true ∧
      step s = .next (after .sweepTimerExpiry { s with pending := [] }) := by
  intro s
  refine ⟨?_, ?_, ?_, ?_, ?_, ?_, ?_, ?_, ?_, ?_⟩
  · intro h; exact absurd h (by decide +kernel)
  · unfold Part.grantsAgree; decide +kernel
  · unfold Part.queueBounded; decide +kernel
  · unfold Part.heldInHunt; decide +kernel
  · unfold Part.faultCodeAgrees; decide +kernel
  · unfold Part.pendingLaw; decide +kernel
  · unfold Part.presenceLaw; decide +kernel
  · unfold State.baseAligned; decide +kernel
  · decide +kernel
  · rfl

end Sys2Proof.Tests
end

/-! PROOF. Triggers (R31, Table 2-2) and the placement of a triggered slot in its dispatch queue (R40). -/

namespace Sys2Proof.Machine

/-- A 16-bit count is raised by one and stops at 65535. -/
theorem satHalf_eq (h : Half) : satHalf h = if h = 0xFFFF then 0xFFFF else h + 1 := by
  simp only [satHalf, beq_iff_eq]
  split
  · next full => exact full
  · rfl

/-! ### Placement in a dispatch queue (R40) -/

/-- `t` is the queue `q` with slot `n` placed in it by R40: at the tail, or directly behind the last urgent entry. -/
def placedByUrgency (urgent : SlotNo → Bool) (n : SlotNo) (q t : List SlotNo) : Prop :=
  ∃ a b, q = a ++ b ∧ t = a ++ n :: b ∧ (urgent n = false → b = []) ∧
    (urgent n = true → (∀ k ∈ b, urgent k = false) ∧ ∀ k, a.getLast? = some k → urgent k = true)

/-- An urgent slot goes between the queue up to its last urgent entry and the normal entries that end the queue. -/
theorem insertUrgent_eq (urgent : SlotNo → Bool) (n : SlotNo) (q : List SlotNo) :
    insertUrgent urgent n q = q.rdropWhile (fun k => !urgent k) ++ n :: q.rtakeWhile (fun k => !urgent k) := by
  have parts : q.rdropWhile (fun k => !urgent k) ++ q.rtakeWhile (fun k => !urgent k) = q :=
    List.rdropWhile_append_rtakeWhile
  have normal : (q.reverse.takeWhile fun k => !urgent k).length = (q.rtakeWhile fun k => !urgent k).length :=
    List.length_reverse.symm
  simp only [insertUrgent, normal]
  generalize q.rdropWhile (fun k => !urgent k) = a, q.rtakeWhile (fun k => !urgent k) = b at parts ⊢
  subst parts
  simp

theorem insertUrgent_placed (urgent : SlotNo → Bool) (n : SlotNo) (q : List SlotNo) (isUrgent : urgent n = true) :
    placedByUrgency urgent n q (insertUrgent urgent n q) := by
  refine ⟨_, _, List.rdropWhile_append_rtakeWhile.symm, insertUrgent_eq urgent n q, by simp [isUrgent],
    fun _ => ⟨?_, ?_⟩⟩
  · intro k hk
    simpa using List.mem_rtakeWhile_imp hk
  · intro k last
    obtain ⟨nonempty, rfl⟩ := List.mem_getLast?_eq_getLast last
    simpa using List.rdropWhile_last_not _ _ nonempty

theorem append_placed (urgent : SlotNo → Bool) (n : SlotNo) (q : List SlotNo) (normal : urgent n = false) :
    placedByUrgency urgent n q (q ++ [n]) :=
  ⟨q, [], (List.append_nil q).symm, rfl, fun _ => rfl, by simp [normal]⟩

/-- A placement leaves every slot as it is. -/
@[simp] theorem Part.slot_placeTriggered (m : Part) (n k : SlotNo) : (m.placeTriggered n).slot k = m.slot k := by
  unfold Part.placeTriggered
  split <;> rfl

theorem Part.placeTriggered_placed (m : Part) (n : SlotNo) :
    placedByUrgency (fun k => (m.slot k).order.urgent) n (m.queue (m.slot n).order.portNo)
      ((m.placeTriggered n).queue (m.slot n).order.portNo) := by
  cases urgency : (m.slot n).order.urgent with
  | true => simpa [Part.placeTriggered, urgency] using insertUrgent_placed _ n _ urgency
  | false => simpa [Part.placeTriggered, urgency] using append_placed (fun k => (m.slot k).order.urgent) n _ urgency

/-! ### The rows of Table 2-2 -/

/-- The slot that a trigger finds TAKEN, queued: the first row of Table 2-2 before the placement. -/
def Part.queueSlot (m : Part) (n : SlotNo) : Part := m.onSlot n fun x => { x with state := .queued }

theorem Part.order_queueSlot (m : Part) (n k : SlotNo) : ((m.queueSlot n).slot k).order = (m.slot k).order := by
  by_cases same : n = k
  · subst same; simp [Part.queueSlot]
  · rw [Part.queueSlot, Part.slot_onSlot_of_ne m n k _ same]

theorem Part.trigger_of_taken (m : Part) (n : SlotNo) (taken : (m.slot n).state = .taken) :
    m.trigger n = (m.queueSlot n).placeTriggered n := by
  simp only [Part.trigger, taken, Part.queueSlot]

theorem Part.trigger_of_waiting (m : Part) (n : SlotNo)
    (waits : (m.slot n).state = .queued ∨ (m.slot n).state = .active) :
    m.trigger n =
      if (m.slot n).owed then m.onSlot n fun x => { x with overruns := satHalf x.overruns }
      else m.onSlot n fun x => { x with owed := true } := by
  obtain queued | active := waits
  · simp only [Part.trigger, queued]
  · simp only [Part.trigger, active]

theorem Part.trigger_of_hostOwned (m : Part) (n : SlotNo) (hostOwned : (m.slot n).state.partOwned = false) :
    m.trigger n = m := by
  unfold Part.trigger
  cases state : (m.slot n).state with
  | taken | queued | active => simp [state, SlotState.partOwned] at hostOwned
  | vacant | done | failed | rejected | withdrawn => rfl

theorem Part.slot_trigger_of_taken (m : Part) (n : SlotNo) (taken : (m.slot n).state = .taken) :
    (m.trigger n).slot n = { m.slot n with state := .queued } := by
  simp [Part.trigger_of_taken m n taken, Part.queueSlot]

theorem Part.trigger_placed_of_taken (m : Part) (n : SlotNo) (taken : (m.slot n).state = .taken) :
    placedByUrgency (fun k => (m.slot k).order.urgent) n (m.queue (m.slot n).order.portNo)
      ((m.trigger n).queue (m.slot n).order.portNo) := by
  have placed := (m.queueSlot n).placeTriggered_placed n
  simp only [Part.order_queueSlot] at placed
  rw [Part.trigger_of_taken m n taken]
  exact placed

/-- Settles O38: the rows of Table 2-2 one by one, the first with the placement of R40. -/
theorem triggerFollowsTable : Obligations.TriggerFollowsTable := by
  intro m n
  refine ⟨fun taken => ⟨m.slot_trigger_of_taken n taken, m.trigger_placed_of_taken n taken⟩,
    fun waits => ⟨fun notOwed => ?_, fun owed => ?_⟩, m.trigger_of_hostOwned n⟩
  · rw [m.trigger_of_waiting n waits, notOwed]
    rfl
  · rw [m.trigger_of_waiting n waits, owed, ← satHalf_eq]
    rfl

end Sys2Proof.Machine

/-! PROOF. Frames at the receiver machine: what spoils the frame that is being collected (R76). -/

namespace Sys2Proof.Machine

/-- Settles O19: an error on any byte and a length byte above 248 lead to one and the same step, the entry to DISCARD
that empties the buffer and reports SPOILED. -/
theorem spoiledFrameIsDiscarded : Obligations.SpoiledFrameIsDiscarded := by
  intro r v st collect spoils
  rw [r.arrive_spoiled v st collect spoils]
  exact ⟨rfl, rfl, rfl⟩

end Sys2Proof.Machine

/-! PROOF. The presence machine at step 4 of a sweep (R148, R149, Table 8-4). -/

namespace Sys2Proof.Machine

/-! ### The rows of Table 8-4 -/

theorem evalPresence_lastMark (limit : Byte) (w : Sweep) : (evalPresence limit w).lastMark = some w.markRead := by
  unfold evalPresence
  (repeat' split) <;> rfl

/-- The first reading after START is only recorded. -/
theorem evalPresence_first (limit : Byte) (w : Sweep) (first : w.lastMark = none) :
    evalPresence limit w = { w with lastMark := some w.markRead } := by
  simp only [evalPresence, first]

theorem evalPresence_of_mark_changed (limit : Byte) (w : Sweep) (k : Word) (last : w.lastMark = some k)
    (changed : w.markRead ≠ k) :
    evalPresence limit w = { w with lastMark := some w.markRead, silence := 0, presence := .present } := by
  simp only [evalPresence, last, if_pos changed]

theorem evalPresence_of_absent (limit : Byte) (w : Sweep) (last : w.lastMark = some w.markRead)
    (absent : w.presence = .absent) : evalPresence limit w = w := by
  simp only [evalPresence, last, ne_eq, not_true_eq_false, if_false, absent]
  rw [← last, ← absent]

/-- A limit of 0 judges no host absent. -/
theorem evalPresence_of_no_limit (limit : Byte) (w : Sweep) (last : w.lastMark = some w.markRead)
    (present : w.presence = .present) (noLimit : limit = 0) : evalPresence limit w = { w with silence := 0 } := by
  simp only [evalPresence, last, ne_eq, not_true_eq_false, if_false, present, noLimit, if_true]

theorem evalPresence_of_below_limit (limit : Byte) (w : Sweep) (last : w.lastMark = some w.markRead)
    (present : w.presence = .present) (below : w.silence.toNat + 1 < limit.toNat) :
    evalPresence limit w = { w with silence := w.silence + 1 } := by
  have limited : limit ≠ 0 := by rintro rfl; simp at below
  simp only [evalPresence, last, ne_eq, not_true_eq_false, if_false, present, limited, below, if_true]

theorem evalPresence_of_limit_reached (limit : Byte) (w : Sweep) (last : w.lastMark = some w.markRead)
    (present : w.presence = .present) (reached : w.silence.toNat + 1 = limit.toNat) :
    evalPresence limit w = { w with silence := limit, presence := .absent } := by
  have limited : limit ≠ 0 := by rintro rfl; simp at reached
  simp only [evalPresence, last, ne_eq, not_true_eq_false, if_false, present, limited, reached, Nat.lt_irrefl]

/-! ### Step 4 of a sweep -/

@[simp] theorem Part.evaluatePresence_sweep (m : Part) :
    m.evaluatePresence.sweep = evalPresence m.setup.global.silenceLimit m.sweep := by
  unfold Part.evaluatePresence
  dsimp only
  split <;> rfl

/-- The cause ABSENT is set at the entry to ABSENT (R149). -/
theorem Part.evaluatePresence_of_entry (m : Part) (was : m.sweep.presence = .present)
    (now : (evalPresence m.setup.global.silenceLimit m.sweep).presence = .absent) :
    m.evaluatePresence =
      ({ m with sweep := evalPresence m.setup.global.silenceLimit m.sweep } : Part).setCause .absent :=
  if_pos ⟨was, now⟩

theorem Part.evaluatePresence_of_no_entry (m : Part)
    (stays : m.sweep.presence = .present → (evalPresence m.setup.global.silenceLimit m.sweep).presence = .present) :
    m.evaluatePresence = { m with sweep := evalPresence m.setup.global.silenceLimit m.sweep } := by
  refine if_neg fun ⟨was, now⟩ => ?_
  cases (stays was).symm.trans now

/-- Settles O42: the rows of Table 8-4 one by one; the ABSENT cause is set in the last row alone. -/
theorem presenceFollowsHostMark : Obligations.PresenceFollowsHostMark := by
  refine ⟨fun _ _ => rfl, fun m => ⟨?_, fun first => ?_, fun k last => ?_⟩⟩
  · rw [m.evaluatePresence_sweep, evalPresence_lastMark]
  · have row := evalPresence_first m.setup.global.silenceLimit m.sweep first
    rw [m.evaluatePresence_of_no_entry (by simp [row]), row]
  · refine ⟨fun changed => ?_, ?_, ?_, ?_, ?_⟩
    · have row := evalPresence_of_mark_changed m.setup.global.silenceLimit m.sweep k last changed
      simp [m.evaluatePresence_of_no_entry (by simp [row]), row]
    all_goals rintro rfl was
    · have row := evalPresence_of_absent m.setup.global.silenceLimit m.sweep last was
      simp [m.evaluatePresence_of_no_entry (by simp [row]), row, was]
    · intro noLimit
      have row := evalPresence_of_no_limit _ m.sweep last was noLimit
      simp [m.evaluatePresence_of_no_entry (by simp [row, was]), row, was]
    · intro below
      have row := evalPresence_of_below_limit _ m.sweep last was below
      simp [m.evaluatePresence_of_no_entry (by simp [row, was]), row, was]
    · intro reached
      have row := evalPresence_of_limit_reached _ m.sweep last was reached
      simp [m.evaluatePresence_of_entry was (by simp [row]), row, Cause.bit]

end Sys2Proof.Machine

/-! PROOF. The ATTENTION register and INT (R151 to R153). -/

namespace Sys2Proof.Machine

/-! ### Register writes in fewer byte lanes (R164) -/

/-- The mask of byte lane `k` of a register. -/
def laneMask (k : Nat) : Word := 0xFF <<< (8 * k)

theorem laneMask_getLsbD : ∀ k < 4, ∀ i < 32, (laneMask k).getLsbD i = decide (i / 8 = k) := by decide

/-- The bits that one byte lane brings to the value written. -/
theorem laneBits_getLsbD (value : Word) (written : Bool) (k i : Nat) (lane : k < 4) :
    (if written then value &&& laneMask k else 0).getLsbD i = (value.getLsbD i && (written && decide (i / 8 = k))) := by
  by_cases inWord : i < 32
  · cases written <;> simp [laneMask_getLsbD k lane i inWord]
  · simp [BitVec.getLsbD_of_ge _ _ (Nat.le_of_not_lt inWord)]

theorem laneValue_eq_laneMasks (value : Word) (lanes : Lanes) :
    laneValue value lanes =
      (if lanes.getLsbD 0 then value &&& laneMask 0 else 0) |||
      (if lanes.getLsbD 1 then value &&& laneMask 1 else 0) |||
      (if lanes.getLsbD 2 then value &&& laneMask 2 else 0) |||
      (if lanes.getLsbD 3 then value &&& laneMask 3 else 0) :=
  rfl

/-- A bit is taken as written when its byte lane is written, and as 0 otherwise. -/
theorem laneValue_getLsbD (value : Word) (lanes : Lanes) (i : Nat) :
    (laneValue value lanes).getLsbD i = (value.getLsbD i && lanes.getLsbD (i / 8)) := by
  simp only [laneValue_eq_laneMasks, BitVec.getLsbD_or, laneBits_getLsbD, Nat.reduceLT]
  by_cases inWord : i < 32
  · have lane : i / 8 < 4 := by omega
    generalize i / 8 = k at lane
    interval_cases k <;> simp
  · simp [BitVec.getLsbD_of_ge _ _ (Nat.le_of_not_lt inWord)]

/-! ### The fields of ATTENTION (R152) -/

theorem clearCauses_getLsbD (causes : BitVec 5) (written : Word) (i : Nat) :
    (clearCauses causes written).getLsbD i = (causes.getLsbD i && !written.getLsbD i) := by
  by_cases bit : i < 5
  · simp [clearCauses, bit]
  · simp [BitVec.getLsbD_of_ge _ _ (Nat.le_of_not_lt bit)]

theorem writtenEnables_getLsbD (written : Word) (i : Nat) (bit : i < 5) :
    (writtenEnables written).getLsbD i = written.getLsbD (i + 16) := by
  simp [writtenEnables, bit, Nat.add_comm]

theorem readAttention_getLsbD (s : State) (i : Nat) :
    (readAttention s).getLsbD i =
      if i < 5 then s.part.causes.getLsbD i
      else if 16 ≤ i ∧ i < 21 then s.window.enables.getLsbD (i - 16) else false := by
  have causes (h : 5 ≤ i) : s.part.causes.getLsbD i = false := BitVec.getLsbD_of_ge _ _ h
  have enables (h : 21 ≤ i) : s.window.enables.getLsbD (i - 16) = false := BitVec.getLsbD_of_ge _ _ (by omega)
  simp only [readAttention, BitVec.getLsbD_or, BitVec.getLsbD_shiftLeft, BitVec.truncate_eq_setWidth,
    BitVec.getLsbD_setWidth]
  by_cases low : i < 5
  · have below : i < 16 := by omega
    have inWord : i < 32 := by omega
    simp [low, below, inWord]
  · rw [causes (Nat.le_of_not_lt low), if_neg low, Bool.and_false, Bool.false_or]
    split
    · next high =>
      have inWord : i < 32 := by omega
      have inHalf : i - 16 < 32 := by omega
      simp [high.1, inWord, inHalf]
    · next outside =>
      by_cases below : i < 16
      · simp [below]
      · rw [enables (by omega)]
        simp

/-- INT is asserted exactly when one bit is set in both fields (R153). -/
theorem intPin_iff (s : State) :
    intPin s = true ↔ ∃ i, i < 5 ∧ s.part.causes.getLsbD i = true ∧ s.window.enables.getLsbD i = true := by
  simp only [intPin, bne_iff_ne]
  constructor
  · intro asserted
    by_contra noBit
    refine asserted (BitVec.eq_of_getLsbD_eq fun i bit => ?_)
    have notBoth : ¬(s.part.causes.getLsbD i = true ∧ s.window.enables.getLsbD i = true) := fun both =>
      noBit ⟨i, bit, both⟩
    simpa using notBoth
  · rintro ⟨i, -, cause, enable⟩ noneSet
    have both : (s.part.causes &&& s.window.enables).getLsbD i = true := by simp [cause, enable]
    simp [noneSet] at both

/-! ### Writes with RESET_N released -/

theorem State.unlessReset_of_released (s t : State) (released : s.window.resetAsserted = false) :
    s.unlessReset t = t := by
  simp [State.unlessReset, released]

theorem exec_attentionWrite (s : State) (value : Word) (lanes : Lanes) (released : s.window.resetAsserted = false) :
    exec (.attentionWrite value lanes) s = .next (s.takeAttention (laneValue value lanes)) :=
  congrArg Host.Outcome.next (s.unlessReset_of_released _ released)

theorem exec_softReset (s : State) (released : s.window.resetAsserted = false) :
    exec .softReset s = .next s.takeReset :=
  congrArg Host.Outcome.next (s.unlessReset_of_released _ released)

/-- Settles O15: the bits of ATTENTION one by one, through the byte lane that each bit of a write belongs to. -/
theorem attentionReadsAndWrites : Obligations.AttentionReadsAndWrites := by
  refine ⟨readAttention_getLsbD, fun s value lanes released => ?_, fun _ _ => rfl⟩
  refine ⟨_, _, exec_attentionWrite s value lanes released, fun i bit => ⟨?_, ?_⟩⟩
  · have lane : i / 8 = 0 := by omega
    rw [clearCauses_getLsbD, laneValue_getLsbD, lane]
  · have lane : (i + 16) / 8 = 2 := by omega
    rw [writtenEnables_getLsbD _ i bit, laneValue_getLsbD, lane]

/-! ### START and the attention logic (R153) -/

/-- LOADING before the adoption, with the given causes: what START brings about and all internal work keeps until the
adoption begins. -/
structure Part.LoadsWith (given : BitVec 5) (m : Part) : Prop where
  loading : m.engine = .loading
  beforeAdoption : ∀ k, m.loader.phase ≠ .adopting k
  causes : m.causes = given

theorem Part.startSetupRead_loadsWith (given : BitVec 5) (m : Part) (base : Word) (k : Nat)
    (loads : m.LoadsWith given) : (m.startSetupRead base k).LoadsWith given :=
  ⟨loads.loading, fun _ => LoadPhase.noConfusion, loads.causes⟩

theorem Part.startLoading_loadsWith (m : Part) (base : Word) : (m.startLoading base).LoadsWith m.causes := by
  unfold Part.startLoading
  dsimp only
  split <;> exact ⟨rfl, fun _ => LoadPhase.noConfusion, rfl⟩

theorem Part.startWait_loadsWith (given : BitVec 5) (m m' : Part) (who : Producer) (since : Nat)
    (h : m.startWait who since = some m') (loads : m.LoadsWith given) : m'.LoadsWith given := by
  unfold Part.startWait at h
  split at h
  · cases h
  · cases h
    exact ⟨loads.loading, loads.beforeAdoption, loads.causes⟩

theorem Part.clearEntry_loadsWith (given : BitVec 5) (m : Part) (base : Word) (p : PortNo) (rest : List PortNo)
    (loads : m.LoadsWith given) : (m.clearEntry base p rest).LoadsWith given := by
  have queued : (({ m with clearPending := rest } : Part).pushEntry (reportEntry base p (m.port p))).LoadsWith given :=
    ⟨loads.loading, loads.beforeAdoption, loads.causes⟩
  unfold Part.clearEntry
  dsimp only
  split
  · exact Part.startSetupRead_loadsWith given _ base 0 queued
  · exact queued

theorem Part.clearStep_loadsWith (given : BitVec 5) (m m' : Part) (base : Word) (h : m.clearStep base = some m')
    (loads : m.LoadsWith given) : m'.LoadsWith given := by
  unfold Part.clearStep at h
  cases pending : m.clearPending with
  | nil =>
    rw [pending] at h
    cases h
  | cons p rest =>
    simp only [pending] at h
    split at h
    · cases h
      exact m.clearEntry_loadsWith given base p rest loads
    · exact m.startWait_loadsWith given m' _ _ h loads

/-- Before the adoption there is no adoption entry to queue. -/
theorem Part.adoptStep_of_loadsWith (given : BitVec 5) (m : Part) (base : Word) (loads : m.LoadsWith given) :
    m.adoptStep base = none := by
  unfold Part.adoptStep
  cases phase : m.loader.phase with
  | adopting k => exact absurd phase (loads.beforeAdoption k)
  | idle | clearing | setupRead _ | adoptRead _ => rfl

theorem Part.settleStep_loadsWith (given : BitVec 5) (m m' : Part) (base : Word) (h : m.settleStep base = some m')
    (loads : m.LoadsWith given) : m'.LoadsWith given := by
  have quiet : m.engine.working = false := by rw [loads.loading]; rfl
  rw [Part.settleStep, quiet, if_neg Bool.false_ne_true] at h
  obtain clears | adopts := m.quietStep_cases m' base h
  · exact m.clearStep_loadsWith given m' base clears loads
  · rw [m.adoptStep_of_loadsWith given base loads] at adopts
    cases adopts

theorem Part.grantBus_loadsWith (given : BitVec 5) (m : Part) (loads : m.LoadsWith given) :
    m.grantBus.LoadsWith given := by
  obtain ⟨loading, beforeAdoption, causes⟩ := loads
  constructor <;> simpa only [Part.grantBus_fields]

/-- An accepted START leaves the causes as they are. -/
theorem State.accept_startLoading_causes (s : State) (released : s.window.resetAsserted = false) :
    (s.accept 1 Part.startLoading).part.causes = s.part.causes := by
  have ends := Part.finish_keeps s.window.base (Part.LoadsWith s.part.causes)
    (fun m m' => m.settleStep_loadsWith s.part.causes m' s.window.base)
    (fun m => m.grantBus_loadsWith s.part.causes) _ (s.part.tick.startLoading_loadsWith s.window.base)
  have part : (s.accept 1 Part.startLoading).part = (s.onPart Part.startLoading).part := rfl
  rw [part, s.onPart_part _ released]
  exact ends.causes

theorem State.takeStart_attention (s : State) (released : s.window.resetAsserted = false) :
    s.takeStart.part.causes = s.part.causes ∧ s.takeStart.window.enables = s.window.enables := by
  unfold State.takeStart
  cases s.part.engine with
  | halted | stopped => exact ⟨s.accept_startLoading_causes released, rfl⟩
  | loading | running | stopping | faulted => exact ⟨rfl, rfl⟩

/-- A reset event clears the causes and, with the registers of either reset, the enables. -/
theorem State.afterReset_attention (s : State) (w : Window) (cleared : w.enables = 0) :
    (s.afterReset w).part.causes = 0 ∧ (s.afterReset w).window.enables = 0 ∧ intPin (s.afterReset w) = false := by
  refine ⟨rfl, cleared, ?_⟩
  have causes : (s.afterReset w).part.causes = 0 := rfl
  simp [intPin, causes]

/-- Settles O16: INT bit by bit; START by what all the internal work before the adoption keeps; the resets and the
entries to STOPPED and FAULTED by their own definitions. -/
theorem intFollowsCausesAndEnables : Obligations.IntFollowsCausesAndEnables := by
  refine ⟨intPin_iff, ?_, ?_, ?_, fun _ => rfl, fun _ _ _ => rfl⟩
  · rintro s _ ⟨⟩
    exact s.afterReset_attention Window.inPinReset rfl
  · intro s t released reset
    cases (exec_softReset s released).symm.trans reset
    exact s.afterReset_attention s.window.afterSoftReset rfl
  · rintro s _ ⟨⟩
    unfold State.unlessReset
    split
    · exact ⟨rfl, rfl⟩
    · next released => exact s.takeStart_attention (Bool.eq_false_of_not_eq_true released)

end Sys2Proof.Machine

/-! PROOF. What a command can do, said once: the own effect of every command, and the induction that carries a law of the
part over a step. -/

namespace Sys2Proof.Machine

/-! ### Own effects -/

/-- The own effect of an event of port `p`: characters, silence, the ends of transmissions, delays and timers. -/
inductive Part.PortEvent (m : Part) (p : PortNo) : Part → Prop where
  | character (levels : Levels) (edge sinh : Bool) : m.PortEvent p (m.character p levels edge sinh)
  | gapPassed : m.PortEvent p (m.gapPassed p)
  | gapComplete : m.PortEvent p (m.gapComplete p)
  | startEdge : m.PortEvent p (m.startEdge p)
  | requestEnds : m.PortEvent p (m.requestEnds p)
  | bidEnds : m.PortEvent p (m.bidEnds p)
  | grantEnds : m.PortEvent p (m.grantEnds p)
  | answerEnds : m.PortEvent p (m.answerEnds p)
  | holdoffPasses : m.PortEvent p (m.holdoffPasses p)
  | grantHoldEnds : m.PortEvent p (m.grantHoldEnds p)
  | turnaroundEnds : m.PortEvent p (m.turnaroundEnds p)
  | replyTimedOut : m.PortEvent p (m.replyTimedOut p)
  | retryWaitEnds : m.PortEvent p (m.retryWaitEnds p)
  | settlingEnds : m.PortEvent p (m.settlingEnds p)
  | bidTimerExpires : m.PortEvent p (m.bidTimerExpires p)
  | grantTimerExpires : m.PortEvent p (m.grantTimerExpires p)

/-- The own effect of an event that has one in RUNNING and STOPPING alone. -/
inductive Part.WorkingEvent (base : Word) (m : Part) : Part → Prop where
  | port (p : PortNo) (m' : Part) (event : m.PortEvent p m') : m.WorkingEvent base m'
  | periodExpired (n : SlotNo) : m.WorkingEvent base (m.periodExpired n)
  | sweepTimerExpired : m.WorkingEvent base (m.sweepTimerExpired base)
  | claimLimitPassed (p : PortNo) : m.WorkingEvent base (m.claimLimitPassed p)
  | jobRoom (kind : JobKind → Bool) : m.WorkingEvent base (m.giveJobRoom base kind)
  | treeRoom (kind : TreeTask → Bool) : m.WorkingEvent base (m.giveTreeRoom base kind)
  | claimRoom : m.WorkingEvent base (m.giveClaimRoom base)
  | sweepRoom : m.WorkingEvent base (m.giveSweepRoom base)
  | stopRoom : m.WorkingEvent base (m.giveStopRoom base)

/-- The own effect of a command on the part, with RESET_N released and no reset. -/
inductive Part.OwnEffect (base : Word) (m : Part) : Part → Prop where
  | nothing : m.OwnEffect base m
  | starts (idle : m.engine = .halted ∨ m.engine = .stopped) : m.OwnEffect base (m.startLoading base)
  | stopsLoading (loading : m.engine = .loading) : m.OwnEffect base m.stopInLoading
  | stops (running : m.engine = .running) : m.OwnEffect base m.enterStopping
  | asksSweep (running : m.engine = .running) : m.OwnEffect base (m.sweepAsked base)
  | clears (running : m.engine = .running) : m.OwnEffect base m.clearAllTallies
  | clearsInStopped (stopped : m.engine = .stopped) : m.OwnEffect base m.clearInStopped
  | burstDone (data : List Byte) : m.OwnEffect base (m.burstDone base data)
  | burstFailed : m.OwnEffect base m.burstFailed
  | adoptionRoom : m.OwnEffect base (m.giveAdoptionRoom base)
  | clearRoom : m.OwnEffect base (m.giveClearRoom base)
  | works (m' : Part) (working : m.engine.working = true) (event : m.WorkingEvent base m') : m.OwnEffect base m'

/-- What a command does to the part: nothing, a reset, a write of the causes, or its own effect with the work that this
sets off. -/
inductive State.PartEvent (s : State) : Part → Prop where
  | keeps : s.PartEvent s.part
  | resets : s.PartEvent s.part.tick.afterReset
  | writesCauses (causes : BitVec 5) : s.PartEvent { s.part with causes := causes }
  | event (m : Part) (own : s.part.tick.OwnEffect s.window.base m) : s.PartEvent (Part.finish s.window.base m)

theorem State.PartEvent.onPart (s : State) (f : Word → Part → Part)
    (own : s.part.tick.OwnEffect s.window.base (f s.window.base s.part.tick)) : s.PartEvent (s.onPart f).part := by
  unfold State.onPart
  split
  · exact .keeps
  · exact .event _ own

theorem State.PartEvent.onWorking (s : State) (f : Word → Part → Part)
    (event : s.part.tick.WorkingEvent s.window.base (f s.window.base s.part.tick)) :
    s.PartEvent (s.onPart fun base => Part.whileWorking (f base)).part := by
  refine .onPart s _ ?_
  unfold Part.whileWorking
  split
  · next working => exact .works _ working event
  · exact .nothing

theorem State.PartEvent.onPort (s : State) (p : PortNo) (f : Part → Part)
    (event : s.part.tick.PortEvent p (f s.part.tick)) : s.PartEvent (s.onWorking f).part :=
  .onWorking s (fun _ => f) (.port p _ event)

theorem State.PartEvent.unlessReset (s t : State) (event : s.PartEvent t.part) :
    s.PartEvent (s.unlessReset t).part := by
  unfold State.unlessReset
  split
  · exact .keeps
  · exact event

theorem State.PartEvent.setMemory (s t : State) (mem : List Host.Cell) (event : s.PartEvent t.part) :
    s.PartEvent (t.setMemory mem).part := by
  unfold State.setMemory
  split <;> exact event

/-! ### The commands of CONTROL -/

theorem State.takeStart_event (s : State) : s.PartEvent s.takeStart.part := by
  unfold State.takeStart
  cases engine : s.part.engine with
  | halted => exact .onPart s _ (.starts (.inl engine))
  | stopped => exact .onPart s _ (.starts (.inr engine))
  | loading | running | stopping | faulted => exact .keeps

theorem State.takeStop_event (s : State) : s.PartEvent s.takeStop.part := by
  unfold State.takeStop
  cases engine : s.part.engine with
  | loading => exact .onPart s _ (.stopsLoading engine)
  | running => exact .onPart s _ (.stops engine)
  | halted | stopping | stopped | faulted => exact .keeps

theorem State.takeSweepNow_event (s : State) : s.PartEvent s.takeSweepNow.part := by
  unfold State.takeSweepNow
  cases engine : s.part.engine with
  | running => exact .onPart s _ (.asksSweep engine)
  | halted | loading | stopping | stopped | faulted => exact .keeps

theorem State.takeClearTallies_event (s : State) : s.PartEvent s.takeClearTallies.part := by
  unfold State.takeClearTallies
  cases engine : s.part.engine with
  | running => exact .onPart s _ (.clears engine)
  | stopped => exact .onPart s _ (.clearsInStopped engine)
  | halted | loading | stopping | faulted => exact .keeps

theorem State.writeControl_event (s : State) (code : Word) : s.PartEvent (s.writeControl code).part := by
  unfold State.writeControl
  split
  · exact s.takeStart_event
  split
  · exact s.takeStop_event
  split
  · exact .resets
  split
  · exact s.takeSweepNow_event
  split
  · exact s.takeClearTallies_event
  · exact .keeps

theorem State.takeBase_event (s : State) (value : Word) : s.PartEvent (s.takeBase value).part := by
  unfold State.takeBase
  cases s.part.engine <;> exact .keeps

theorem State.takeOther_event (s : State) (reg : OtherRegister) (value : Word) :
    s.PartEvent (s.takeOther reg value).part := by
  cases reg with
  | control => exact s.writeControl_event value
  | status | faultAddress => exact .keeps

/-! ### The commands that give room -/

theorem Part.givePostRoom_event (m : Part) (base : Word) : m.WorkingEvent base (m.givePostRoom base) := by
  unfold Part.givePostRoom
  cases m.tree with
  | nil => exact .jobRoom _
  | cons t rest => exact .treeRoom _

theorem State.burstFails_event (s : State) : s.PartEvent s.burstFails.part :=
  .setMemory s _ _ (.onPart s _ .burstFailed)

theorem State.burstAnswered_event (s : State) (answer : BusAnswer) :
    s.PartEvent (if s.part.awaits answer.event then
      (s.onPart fun base m => m.burstDone base answer.data.toList).setMemory (s.part.memoryDone s.memory)
    else s.onPart fun _ m => m).part := by
  split
  · exact .setMemory s _ _ (.onPart s _ (.burstDone _))
  · exact .onPart s _ .nothing

/-- What a command does to the part. -/
theorem exec_partEvent (c : Instr) (s t : State) (h : exec c s = .next t) : s.PartEvent t.part := by
  cases c <;> cases h
  case start => exact .unlessReset s _ s.takeStart_event
  case stop => exact .unlessReset s _ s.takeStop_event
  case softReset => exact .unlessReset s _ .resets
  case sweepNow => exact .unlessReset s _ s.takeSweepNow_event
  case clearTallies => exact .unlessReset s _ s.takeClearTallies_event
  case baseWrite => exact .unlessReset s _ (s.takeBase_event _)
  case attentionWrite => exact .unlessReset s _ (.writesCauses _)
  case otherRegisterWrite => exact .unlessReset s _ (s.takeOther_event _ _)
  case pinReset => exact .resets
  case pinResetRelease => exact .keeps
  case characterArrival => exact .onPort s _ _ (.character _ _ _)
  case gapExceeded => exact .onPort s _ _ .gapPassed
  case gapReached => exact .onPort s _ _ .gapComplete
  case requestEndOfTransmission => exact .onPort s _ _ .requestEnds
  case bidEndOfTransmission => exact .onPort s _ _ .bidEnds
  case grantEndOfTransmission => exact .onPort s _ _ .grantEnds
  case answerEndOfTransmission => exact .onPort s _ _ .answerEnds
  case lineHoldoffEnd => exact .onPort s _ _ .holdoffPasses
  case bidHoldoffEnd => exact .onPort s _ _ .holdoffPasses
  case grantHoldEnd => exact .onPort s _ _ .grantHoldEnds
  case turnaroundEnd => exact .onPort s _ _ .turnaroundEnds
  case replyTimeout => exact .onPort s _ _ .replyTimedOut
  case retryWaitEnd => exact .onPort s _ _ .retryWaitEnds
  case settlingEnd => exact .onPort s _ _ .settlingEnds
  case bidTimerExpiry => exact .onPort s _ _ .bidTimerExpires
  case grantTimerExpiry => exact .onPort s _ _ .grantTimerExpires
  case confirmedStartEdge => exact .onPort s _ _ .startEdge
  case periodExpiry => exact .onWorking s _ (.periodExpired _)
  case sweepTimerExpiry => exact .onWorking s _ .sweepTimerExpired
  case claimWaitLimitExpiry => exact .onWorking s _ (.claimLimitPassed _)
  case burstAnswered => exact s.burstAnswered_event _
  case busError => exact s.burstFails_event
  case busAnswerTimeout => exact s.burstFails_event
  case deferredRunCompletion => exact .onWorking s _ (.jobRoom _)
  case deferredPostEntry => exact .onWorking s _ (s.part.tick.givePostRoom_event _)
  case deferredTableRecordEntry => exact .onWorking s _ .claimRoom
  case deferredSweepEntry => exact .onWorking s _ .sweepRoom
  case deferredAdoptionEntry => exact .onPart s _ .adoptionRoom
  case deferredStopSequenceEntry => exact .onWorking s _ .stopRoom
  case deferredClearTalliesEntry => exact .onPart s _ .clearRoom
  case deferredDeliveryEntry => exact .onWorking s _ (.treeRoom _)

/-! ### Pieces of internal work -/

/-- A piece of work of the part's blocks; if it queues an entry, there is room for it. -/
inductive Part.Piece (base : Word) (m : Part) : Part → Prop where
  | input (i : ClaimInput) (room : m.inputQueues i = true → m.xq.length < 24) : m.Piece base (m.doInput base i)
  | task (t : TreeTask) (room : m.taskQueues t = true → m.xq.length < 24) : m.Piece base (m.doTask base t)
  | job (k : JobKind) (room : k.queues = true → m.xq.length < 24) : m.Piece base (m.doJob base k)
  | resumes (p : PortNo) : m.Piece base (m.resumeRun p)
  | head (p : PortNo) (n : SlotNo) (rest : List SlotNo) : m.Piece base ((m.setQueue p rest).beginRun p n)
  | post (n : Nat) : m.Piece base (m.handPost base n)
  | arms (n : Nat) (o : Order) : m.Piece base ((m.armPost (Fin.ofNat 16 n) o).setSweepPhase (.postWait n))
  | slotDone (n : Nat) : m.Piece base (m.afterSlot base n)
  | holdDone (t : Nat) : m.Piece base (m.afterHold base t)
  | sweep (m' : Part) (entry : m.sweepEntry base = some m') (room : m.xq.length < 24) : m.Piece base m'
  | stop (m' : Part) (entry : m.stopEntry base = some m') (room : m.xq.length < 24) : m.Piece base m'

/-- A piece of work of engine control outside RUNNING and STOPPING, for whose entry there is room. -/
inductive Part.QuietPiece (base : Word) (m : Part) : Part → Prop where
  | clears (p : PortNo) (rest : List PortNo) (room : m.xq.length < 24) : m.QuietPiece base (m.clearEntry base p rest)
  | adopts (k : Nat) (phase : m.loader.phase = .adopting k) (room : m.xq.length < 24) :
    m.QuietPiece base (m.adoptEntry base k)

/-- The fields of the part that its laws speak of. -/
structure LawView where
  engine : EngineState
  faultCode : FaultCode
  setup : Setup
  loader : Loader
  queues : Vector (List SlotNo) 4
  claims : Vector (List Claim) 8
  ports : Vector Port 4
  sweep : Sweep
  xq : List Entry

def Part.lawView (m : Part) : LawView :=
  ⟨m.engine, m.faultCode, m.setup, m.loader, m.queues, m.claims, m.ports, m.sweep, m.xq⟩

/-- What no internal work changes: the adopted setup, the setup error, the fault and the count of events. -/
structure SteadyView where
  setup : Setup
  setupError : BitVec 4
  faultCode : FaultCode
  faultAddress : Word
  eventNo : Nat

def Part.steady (m : Part) : SteadyView := ⟨m.setup, m.setupError, m.faultCode, m.faultAddress, m.eventNo⟩

/-- From `m` the part comes to `m'`: it does a piece of work, once fields that no law speaks of have changed, or only such
fields change. -/
inductive Part.Works (base : Word) (m : Part) : Part → Prop where
  | piece (k m' : Part) (same : k.lawView = m.lawView) (steady : k.steady = m.steady) (working : k.engine.working = true)
      (does : k.Piece base m') : m.Works base m'
  | quietPiece (k m' : Part) (same : k.lawView = m.lawView) (steady : k.steady = m.steady)
      (does : k.QuietPiece base m') : m.Works base m'
  | aside (m' : Part) (same : m'.lawView = m.lawView) (steady : m'.steady = m.steady) : m.Works base m'

theorem Part.xq_lt_of_mayQueue (m : Part) (who : Producer) (h : m.mayQueue who = true) : m.xq.length < 24 := by
  simp only [Part.mayQueue, Part.hasRoom, Config.queueDepth, Bool.and_eq_true] at h
  obtain ⟨-, room⟩ := h
  exact Nat.lt_of_le_of_lt (Nat.le_add_right _ _) (of_decide_eq_true room)

theorem Part.xq_lt_of_hasRoom (m : Part) (h : m.hasRoom = true) : m.xq.length < 24 := by
  have room : m.xq.length + m.waiters.length < 24 := of_decide_eq_true h
  omega

theorem Part.xq_lt_of_givenRoom (m : Part) (who : Producer) (h : m.givenRoom who = true) : m.xq.length < 24 := by
  obtain ⟨_, room, -, -⟩ := (m.givenRoom_iff who).1 h
  exact room

/-- A producer that begins to wait does nothing else. -/
theorem Part.Works.startWait (base : Word) (m m' : Part) (who : Producer) (since : Nat)
    (h : m.startWait who since = some m') : m.Works base m' := by
  unfold Part.startWait at h
  split at h
  · cases h
  · cases h
    exact .aside _ rfl rfl

section Pieces
variable (base : Word) (m m' : Part)

theorem Part.claimStep_works (working : m.engine.working = true) (h : m.claimStep base = some m') :
    m.Works base m' := by
  unfold Part.claimStep at h
  split at h
  · cases h
  · next i rest _ =>
    split at h
    · cases h
    split at h
    · exact .startWait base m m' _ _ h
    · next room =>
      cases h
      refine .piece ({ m with inbox := rest } : Part) _ rfl rfl working (.input i fun queues => ?_)
      have queues' : m.inputQueues i = true := queues
      exact m.xq_lt_of_hasRoom (by simpa [queues'] using room)

theorem Part.treeStep_works (working : m.engine.working = true) (h : m.treeStep base = some m') :
    m.Works base m' := by
  unfold Part.treeStep at h
  split at h
  · cases h
  · next t rest _ =>
    split at h
    · exact .startWait base m m' _ _ h
    · next room =>
      cases h
      refine .piece ({ m with tree := rest } : Part) _ rfl rfl working (.task t fun queues => ?_)
      have queues' : m.taskQueues t = true := queues
      exact m.xq_lt_of_mayQueue .slotManager (by simpa [queues'] using room)

theorem Part.resumeStep_works (p : PortNo) (working : m.engine.working = true) (h : m.resumeStep p = some m') :
    m.Works base m' := by
  unfold Part.resumeStep at h
  split at h
  · cases h
    exact .piece m _ rfl rfl working (.resumes p)
  · cases h

theorem Part.headStep_works (p : PortNo) (working : m.engine.working = true) (h : m.headStep p = some m') :
    m.Works base m' := by
  unfold Part.headStep at h
  split at h
  · cases h
  · next n rest _ =>
    split at h
    · cases h
      exact .piece m _ rfl rfl working (.head p n rest)
    · cases h

theorem Part.jobStep_works (working : m.engine.working = true) (h : m.jobStep base = some m') :
    m.Works base m' := by
  unfold Part.jobStep at h
  split at h
  · cases h
  split at h
  · cases h
  · next j rest _ =>
    split at h
    · next goes =>
      cases h
      refine .piece ({ m with jobs := rest } : Part) _ rfl rfl working (.job j.kind fun queues => ?_)
      exact m.xq_lt_of_mayQueue .slotManager (by simpa [queues] using goes)
    split at h
    · next n others _ =>
      cases h
      exact .piece ({ m with jobs := others } : Part) _ rfl rfl working (.job (.expiry n) fun queues => by cases queues)
    · exact .startWait base m m' _ _ h

theorem Part.sweepStep_works (working : m.engine.working = true) (h : m.sweepStep base = some m') :
    m.Works base m' := by
  have entry (h : (if m.mayQueue .sweepUnit then m.sweepEntry base else m.startWait .sweepUnit m.eventNo) = some m') :
      m.Works base m' := by
    split at h
    · next room => exact .piece m _ rfl rfl working (.sweep m' h (m.xq_lt_of_mayQueue _ room))
    · exact .startWait base m m' _ _ h
  unfold Part.sweepStep at h
  cases phase : m.sweep.phase with
  | idle | mark | slot _ | order _ | hold _ => simp [phase] at h
  | report _ | header => exact entry (by simpa [phase] using h)
  | post n =>
    simp only [phase, Option.ite_none_right_eq_some, Option.some.injEq] at h
    obtain ⟨-, rfl⟩ := h
    exact .piece m _ rfl rfl working (.post n)
  | check n =>
    simp only [phase, Option.ite_none_right_eq_some, Option.some.injEq] at h
    obtain ⟨-, rfl⟩ := h
    exact .piece m _ rfl rfl working (.arms n _)
  | postWait n =>
    simp only [phase, Option.ite_none_right_eq_some, Option.some.injEq] at h
    obtain ⟨-, rfl⟩ := h
    exact .piece m _ rfl rfl working (.slotDone n)
  | holdWait t =>
    simp only [phase, Option.ite_none_left_eq_some, Option.some.injEq] at h
    obtain ⟨-, rfl⟩ := h
    exact .piece m _ rfl rfl working (.holdDone t)

/-- The stop sequence goes on without an entry by its stage alone. -/
theorem Part.stopAdvance_stage (h : m.stopAdvance = some m') :
    ∃ stage, m' = { m with stopSequence := some stage } := by
  unfold Part.stopAdvance at h
  (repeat' split at h) <;> cases h <;> exact ⟨_, rfl⟩

theorem Part.stopStep_works (working : m.engine.working = true) (h : m.stopStep base = some m') :
    m.Works base m' := by
  unfold Part.stopStep at h
  split at h
  · split at h
    · next m1 advance =>
      cases h
      obtain ⟨stage, rfl⟩ := m.stopAdvance_stage m' advance
      exact .aside _ rfl rfl
    split at h
    · cases h
    · next m1 entry =>
      split at h
      · next room =>
        cases h
        exact .piece m _ rfl rfl working (.stop m' entry (m.xq_lt_of_mayQueue _ room))
      · exact .startWait base m m' _ _ h
  · cases h

theorem Part.clearStep_works (h : m.clearStep base = some m') : m.Works base m' := by
  unfold Part.clearStep at h
  split at h
  · cases h
  · next p rest _ =>
    split at h
    · next room =>
      cases h
      exact .quietPiece m _ rfl rfl (.clears p rest (m.xq_lt_of_mayQueue _ room))
    · exact .startWait base m m' _ _ h

theorem Part.adoptStep_works (h : m.adoptStep base = some m') : m.Works base m' := by
  unfold Part.adoptStep at h
  split at h
  · next k phase =>
    split at h
    · next room =>
      cases h
      exact .quietPiece m _ rfl rfl (.adopts k phase (m.xq_lt_of_mayQueue _ room))
    · exact .startWait base m m' _ _ h
  all_goals cases h

/-- Every piece of internal work is one of these. -/
theorem Part.settleStep_works (h : m.settleStep base = some m') : m.Works base m' := by
  unfold Part.settleStep at h
  split at h
  · next working =>
    obtain h | h | ⟨p, h⟩ | ⟨p, h⟩ | h | h | h := m.workingStep_cases m' base h
    · exact m.claimStep_works base m' working h
    · exact m.treeStep_works base m' working h
    · exact m.resumeStep_works base m' p working h
    · exact m.headStep_works base m' p working h
    · exact m.jobStep_works base m' working h
    · exact m.sweepStep_works base m' working h
    · exact m.stopStep_works base m' working h
  · obtain h | h := m.quietStep_cases m' base h
    · exact m.clearStep_works base m' h
    · exact m.adoptStep_works base m' h

/-! ### Room given by a command -/

theorem Part.giveJobRoom_works (kind : JobKind → Bool) (working : m.engine.working = true) :
    m.Works base (m.giveJobRoom base kind) := by
  unfold Part.giveJobRoom
  split
  · next j rest _ _ =>
    split
    · next given =>
      simp only [Bool.and_eq_true] at given
      exact .piece (({ m with jobs := rest } : Part).endWait .slotManager) _ rfl rfl working
        (.job j.kind fun _ => m.xq_lt_of_givenRoom _ given.1)
    · exact .aside _ rfl rfl
  · exact .aside _ rfl rfl

theorem Part.giveTreeRoom_works (kind : TreeTask → Bool) (working : m.engine.working = true) :
    m.Works base (m.giveTreeRoom base kind) := by
  unfold Part.giveTreeRoom
  split
  · exact .aside _ rfl rfl
  · next t rest _ =>
    split
    · next given =>
      simp only [Bool.and_eq_true, and_assoc] at given
      exact .piece (({ m with tree := rest } : Part).endWait .slotManager) _ rfl rfl working
        (.task t fun _ => m.xq_lt_of_givenRoom _ given.1)
    · exact .aside _ rfl rfl

theorem Part.giveClaimRoom_works (working : m.engine.working = true) : m.Works base (m.giveClaimRoom base) := by
  unfold Part.giveClaimRoom
  split
  · exact .aside _ rfl rfl
  · next i rest _ =>
    split
    · next given =>
      exact .piece (({ m with inbox := rest } : Part).endWait .claimUnit) _ rfl rfl working
        (.input i fun _ => m.xq_lt_of_givenRoom _ given)
    · exact .aside _ rfl rfl

theorem Part.giveSweepRoom_works (working : m.engine.working = true) : m.Works base (m.giveSweepRoom base) := by
  unfold Part.giveSweepRoom
  split
  · next given =>
    cases entry : (m.endWait .sweepUnit).sweepEntry base with
    | none => exact .aside _ rfl rfl
    | some m1 => exact .piece (m.endWait .sweepUnit) _ rfl rfl working (.sweep m1 entry (m.xq_lt_of_givenRoom _ given))
  · exact .aside _ rfl rfl

theorem Part.giveStopRoom_works (working : m.engine.working = true) : m.Works base (m.giveStopRoom base) := by
  unfold Part.giveStopRoom
  split
  · next given =>
    cases entry : (m.endWait .engineControl).stopEntry base with
    | none => exact .aside _ rfl rfl
    | some m1 => exact .piece (m.endWait .engineControl) _ rfl rfl working (.stop m1 entry (m.xq_lt_of_givenRoom _ given))
  · exact .aside _ rfl rfl

theorem Part.giveAdoptionRoom_works : m.Works base (m.giveAdoptionRoom base) := by
  unfold Part.giveAdoptionRoom
  split
  · next k phase =>
    split
    · next given =>
      exact .quietPiece (m.endWait .engineControl) _ rfl rfl (.adopts k phase (m.xq_lt_of_givenRoom _ given))
    · exact .aside _ rfl rfl
  all_goals exact .aside _ rfl rfl

theorem Part.giveClearRoom_works : m.Works base (m.giveClearRoom base) := by
  unfold Part.giveClearRoom
  split
  · exact .aside _ rfl rfl
  · next p rest _ =>
    split
    · next given =>
      exact .quietPiece (m.endWait .engineControl) _ rfl rfl (.clears p rest (m.xq_lt_of_givenRoom _ given))
    · exact .aside _ rfl rfl

end Pieces

/-! ### Laws of the part -/

/-- A property of the part that every step keeps, by its reasons: which fields it speaks of; that it holds after a reset;
and that each thing the part can do keeps it. -/
structure Part.Law (P : Part → Prop) : Prop where
  frame : ∀ m m' : Part, m'.lawView = m.lawView → P m → P m'
  reset : P Part.reset
  starts : ∀ (m : Part) (base : Word), m.engine = .halted ∨ m.engine = .stopped → P m → P (m.startLoading base)
  stopsLoading : ∀ m : Part, m.engine = .loading → P m → P m.stopInLoading
  stops : ∀ m : Part, m.engine = .running → P m → P m.enterStopping
  sweepStarts : ∀ (m : Part) (base : Word), m.engine.working = true → P m → P (m.startSweep base)
  sweepLate : ∀ (m : Part) (v : Sweep), v = { m.sweep with pending := v.pending, overruns := v.overruns } →
    m.sweep.phase ≠ .idle → P m → P { m with sweep := v }
  clears : ∀ m : Part, P m → P m.clearAllTallies
  loads : ∀ (m : Part) (base : Word) (bytes : List Byte), m.engine = .loading → P m → P (m.loaderReadDone base bytes)
  sweepReads : ∀ (m : Part) (base : Word) (bytes : List Byte), P m → P (m.sweepReadDone base bytes)
  portBurst : ∀ (m : Part) (p : PortNo) (len : Nat) (data : List Byte), P m → P (m.portBurstDone p len data)
  written : ∀ (m : Part) (len : Nat), P m → P (m.writerDone len)
  portFails : ∀ (m : Part) (p : PortNo), (m.port p).access.isSome = true → P m → P (m.portBusError p)
  faults : ∀ (m : Part) (code : FaultCode) (addr : Nat), code ≠ .none → P m → P (m.enterFaulted code addr)
  port : ∀ (m m' : Part) (p : PortNo), m.engine.working = true → m.PortEvent p m' → P m → P m'
  piece : ∀ (m m' : Part) (base : Word), m.engine.working = true → m.Piece base m' → P m → P m'
  quietPiece : ∀ (m m' : Part) (base : Word), m.QuietPiece base m' → P m → P m'

section Law
variable {P : Part → Prop}

theorem Part.Law.works (law : Part.Law P) (base : Word) (m m' : Part) (does : m.Works base m') (h : P m) : P m' := by
  cases does with
  | piece k m' same _ working does => exact law.piece k m' base working does (law.frame m k same h)
  | quietPiece k m' same _ does => exact law.quietPiece k m' base does (law.frame m k same h)
  | aside m' same _ => exact law.frame m m' same h

theorem Part.Law.sweepAsked (law : Part.Law P) (base : Word) (m : Part) (running : m.engine = .running) (h : P m) :
    P (m.sweepAsked base) := by
  unfold Part.sweepAsked
  split
  · next busy => exact law.sweepLate m _ rfl (by simpa [Sweep.inProgress] using busy) h
  · exact law.sweepStarts m base (by rw [running]; rfl) h

theorem Part.Law.sweepTimerExpired (law : Part.Law P) (base : Word) (m : Part) (working : m.engine.working = true)
    (h : P m) : P (m.sweepTimerExpired base) := by
  unfold Part.sweepTimerExpired
  split
  · split
    · next busy =>
      have inProgress : m.sweep.phase ≠ .idle := by simpa [Sweep.inProgress] using busy
      split
      · exact law.sweepLate m _ rfl inProgress h
      · exact law.sweepLate m _ rfl inProgress h
    split
    · exact h
    · exact law.sweepStarts m base working h
  · exact h

theorem Part.Law.workingEvent (law : Part.Law P) (base : Word) (m m' : Part) (working : m.engine.working = true)
    (event : m.WorkingEvent base m') (h : P m) : P m' := by
  cases event with
  | port p m' event => exact law.port m m' p working event h
  | periodExpired n =>
    refine law.frame m _ ?_ h
    unfold Part.periodExpired
    split <;> rfl
  | sweepTimerExpired => exact law.sweepTimerExpired base m working h
  | claimLimitPassed p =>
    refine law.frame m _ ?_ h
    unfold Part.claimLimitPassed
    split <;> rfl
  | jobRoom kind => exact law.works base m _ (m.giveJobRoom_works base kind working) h
  | treeRoom kind => exact law.works base m _ (m.giveTreeRoom_works base kind working) h
  | claimRoom => exact law.works base m _ (m.giveClaimRoom_works base working) h
  | sweepRoom => exact law.works base m _ (m.giveSweepRoom_works base working) h
  | stopRoom => exact law.works base m _ (m.giveStopRoom_works base working) h

theorem Part.Law.sweepBurst (law : Part.Law P) (m : Part) (base : Word) (len : Nat) (data : List Byte) (h : P m) :
    P (m.sweepBurstDone base len data) := by
  unfold Part.sweepBurstDone
  split
  · exact h
  · have ended : P { m with sweepAccess := none } := law.frame m _ rfl h
    dsimp only
    split
    · split
      · next loading => exact law.loads _ base _ loading ended
      · exact law.sweepReads _ base _ ended
    · exact law.frame m _ rfl h

theorem Part.Law.burstDone (law : Part.Law P) (m : Part) (base : Word) (data : List Byte) (h : P m) :
    P (m.burstDone base data) := by
  unfold Part.burstDone
  split
  · exact h
  · have freed : P { m with bus := none } := law.frame m _ rfl h
    dsimp only
    split
    · exact freed
    split
    · exact law.sweepBurst _ base _ _ freed
    · exact law.portBurst _ _ _ _ freed
    · exact law.written _ _ freed

theorem Part.Law.burstFailed (law : Part.Law P) (m : Part) (h : P m) : P m.burstFailed := by
  unfold Part.burstFailed
  split
  · exact h
  · have freed : P { m with bus := none } := law.frame m _ rfl h
    dsimp only
    split
    · exact freed
    split
    · exact law.faults _ _ _ (by split <;> exact FaultCode.noConfusion) freed
    · split
      · next outstanding => exact law.portFails _ _ outstanding freed
      · exact freed
    · exact law.faults _ _ _ FaultCode.noConfusion freed

theorem Part.Law.ownEffect (law : Part.Law P) (base : Word) (m m' : Part) (own : m.OwnEffect base m') (h : P m) :
    P m' := by
  cases own with
  | nothing => exact h
  | starts idle => exact law.starts m base idle h
  | stopsLoading loading => exact law.stopsLoading m loading h
  | stops running => exact law.stops m running h
  | asksSweep running => exact law.sweepAsked base m running h
  | clears running => exact law.clears m h
  | clearsInStopped stopped => exact law.frame m.clearAllTallies _ rfl (law.clears m h)
  | burstDone data => exact law.burstDone m base data h
  | burstFailed => exact law.burstFailed m h
  | adoptionRoom => exact law.works base m _ (m.giveAdoptionRoom_works base) h
  | clearRoom => exact law.works base m _ (m.giveClearRoom_works base) h
  | works m' working event => exact law.workingEvent base m m' working event h

theorem Part.grantBus_lawView (m : Part) : m.grantBus.lawView = m.lawView := by
  simp [Part.lawView, Part.grantBus_fields]

theorem Part.Law.finish (law : Part.Law P) (base : Word) (m : Part) (h : P m) : P (Part.finish base m) :=
  Part.finish_keeps base P (fun m m' work => law.works base m m' (m.settleStep_works base m' work))
    (fun m => law.frame m _ m.grantBus_lawView) m h

/-- A law of the part is kept by every step. -/
theorem Part.Law.step (law : Part.Law P) (s t : State) (h : Sys2Proof.Machine.step s = .next t) (holds : P s.part) :
    P t.part := by
  unfold Sys2Proof.Machine.step at h
  split at h
  · cases h
    exact holds
  · next c rest _ =>
    have event := exec_partEvent c { s with pending := rest } t h
    generalize t.part = m' at event
    cases event with
    | keeps => exact holds
    | resets => exact law.frame Part.reset _ rfl law.reset
    | writesCauses causes => exact law.frame s.part _ rfl holds
    | event m own => exact law.finish _ m (law.ownEffect _ _ m own (law.frame s.part _ rfl holds))

end Law

end Sys2Proof.Machine

/-! PROOF. Laws of engine control that every step keeps: the quiet part outside RUNNING and STOPPING, the bound of the
exchange write queue, the fault code, sweep-pending and presence (R73, R143, R148, R149, R158, R167, R175, R176). -/

namespace Sys2Proof.Machine

/-! ### What the pieces of work leave of engine control -/

theorem Part.PortEvent.control {m m' : Part} {p : PortNo} (event : m.PortEvent p m') : m'.control = m.control := by
  cases event with
  | character _ _ _ => exact m.character_control _ _ _ _
  | gapPassed => exact m.gapPassed_control p
  | gapComplete => exact m.gapComplete_control p
  | startEdge => exact m.startEdge_control p
  | requestEnds => unfold Part.requestEnds; split <;> simp
  | bidEnds => unfold Part.bidEnds; split <;> simp
  | grantEnds => unfold Part.grantEnds; (repeat' split) <;> simp
  | answerEnds => unfold Part.answerEnds; split <;> simp
  | holdoffPasses => exact m.holdoffPasses_control p
  | grantHoldEnds => unfold Part.grantHoldEnds; split <;> simp
  | turnaroundEnds => exact m.turnaroundEnds_control p
  | replyTimedOut => unfold Part.replyTimedOut; split <;> simp
  | retryWaitEnds => unfold Part.retryWaitEnds Part.endByLastFailure; (repeat' split) <;> simp
  | settlingEnds => unfold Part.settlingEnds; split <;> simp
  | bidTimerExpires => unfold Part.bidTimerExpires; split <;> simp
  | grantTimerExpires => unfold Part.grantTimerExpires; split <;> simp

theorem Part.PortEvent.beyondPorts {m m' : Part} {p : PortNo} (event : m.PortEvent p m') :
    m'.beyondPorts = m.beyondPorts := by
  cases event with
  | character _ _ _ => exact m.character_beyondPorts _ _ _ _
  | gapPassed => exact m.gapPassed_beyondPorts p
  | gapComplete => exact m.gapComplete_beyondPorts p
  | startEdge => exact m.startEdge_beyondPorts p
  | requestEnds => unfold Part.requestEnds; split <;> simp
  | bidEnds => unfold Part.bidEnds; split <;> simp
  | grantEnds => unfold Part.grantEnds; (repeat' split) <;> simp
  | answerEnds => unfold Part.answerEnds; split <;> simp
  | holdoffPasses => exact m.holdoffPasses_beyondPorts p
  | grantHoldEnds => unfold Part.grantHoldEnds; split <;> simp
  | turnaroundEnds => exact m.turnaroundEnds_beyondPorts p
  | replyTimedOut => unfold Part.replyTimedOut; split <;> simp
  | retryWaitEnds => unfold Part.retryWaitEnds Part.endByLastFailure; (repeat' split) <;> simp
  | settlingEnds => unfold Part.settlingEnds; split <;> simp
  | bidTimerExpires => unfold Part.bidTimerExpires; split <;> simp
  | grantTimerExpires => unfold Part.grantTimerExpires; split <;> simp

/-- The entries of the stop sequence. -/
theorem Part.stopEntry_cases (m m' : Part) (base : Word) (h : m.stopEntry base = some m') :
    (∃ t stage, m' = { m.releaseHold base t with stopSequence := stage }) ∨
    (∃ n stage, m' = { m.complete base n stoppedCompletion with stopSequence := stage }) ∨
    m' = (m.pushEntry (headerEntry base m.sweep.count .stopped m.sweep.presence m.sweep.overruns)).enterStopped := by
  unfold Part.stopEntry at h
  split at h
  · split at h <;> cases h
    exact .inl ⟨_, _, rfl⟩
  · split at h <;> cases h
    exact .inr (.inl ⟨_, _, rfl⟩)
  · split at h <;> cases h
    exact .inr (.inr rfl)
  · cases h

@[simp] theorem Part.releaseHold_control (m : Part) (base : Word) (t : TableNo) :
    (m.releaseHold base t).control = m.control := by
  simp [Part.releaseHold]

/-- A piece of work of the blocks leaves engine control as it is, but for the stage of the stop sequence, and for the
entry to STOPPED that ends it. -/
theorem Part.Piece.control {m m' : Part} {base : Word} (does : m.Piece base m') :
    (∃ stage, m'.control = { m.control with stopSequence := stage }) ∨
      m' = (m.pushEntry (headerEntry base m.sweep.count .stopped m.sweep.presence m.sweep.overruns)).enterStopped := by
  cases does with
  | input i => exact .inl ⟨_, m.doInput_control base i⟩
  | task t => exact .inl ⟨_, m.doTask_control base t⟩
  | job k => exact .inl ⟨_, m.doJob_control base k⟩
  | resumes p => exact .inl ⟨_, m.resumeRun_control p⟩
  | head p n rest => exact .inl ⟨_, (m.setQueue p rest).beginRun_control p n⟩
  | post n => exact .inl ⟨_, m.handPost_control base n⟩
  | arms n o => exact .inl ⟨_, m.armPost_control _ o⟩
  | slotDone n => exact .inl ⟨_, m.afterSlot_control base n⟩
  | holdDone t => exact .inl ⟨_, m.afterHold_control base t⟩
  | sweep m' entry => exact .inl ⟨_, m.sweepEntry_control m' base entry⟩
  | stop m' entry =>
    obtain ⟨t, stage, rfl⟩ | ⟨n, stage, rfl⟩ | rfl := m.stopEntry_cases m' base entry
    · exact .inl ⟨stage, congrArg (fun v : ControlView => { v with stopSequence := stage })
        (m.releaseHold_control base t)⟩
    · exact .inl ⟨stage, congrArg (fun v : ControlView => { v with stopSequence := stage })
        (m.complete_control base n _)⟩
    · exact .inr rfl

/-! ### The part outside RUNNING and STOPPING (R73, R175) -/

theorem Part.quiet_of_working (m : Part) (working : m.engine.working = true) : m.quiet := by
  intro idle
  rw [working] at idle
  cases idle

/-- Nothing that the law of a quiet part speaks of becomes less quiet. -/
theorem Part.quiet_of_same (m m' : Part) (engine : m'.engine.working = m.engine.working)
    (queues : m'.queues = m.queues) (claims : m'.claims = m.claims)
    (ports : ∀ p, (m'.port p).tx = (m.port p).tx ∧ (m'.port p).receiver = (m.port p).receiver ∧
      (m'.port p).access = (m.port p).access) (h : m.quiet) : m'.quiet := by
  intro idle
  obtain ⟨lines, lists⟩ := h (engine ▸ idle)
  refine ⟨fun p => ?_, fun t => ?_⟩
  · obtain ⟨tx, receiver, access⟩ := ports p
    obtain ⟨queue, silent, inactive, empty, none⟩ := lines p
    refine ⟨?_, tx.trans silent, by rw [receiver, inactive], by rw [receiver, empty], access.trans none⟩
    rw [← queue, Part.queue, Part.queue, queues]
  · rw [← lists t, Part.claimList, Part.claimList, claims]

theorem Part.enterStopped_quiet (m : Part) : m.enterStopped.quiet := by
  intro _
  have port (p : PortNo) : m.enterStopped.port p = (m.port p).offline := m.port_onPorts p Port.offline
  refine ⟨fun p => ?_, fun t => ?_⟩
  · rw [port p]
    exact ⟨by simp [Part.queue, Part.enterStopped, Vector.get], rfl, rfl, rfl, rfl⟩
  · simp [Part.claimList, Part.enterStopped, Vector.get]

theorem Part.enterFaulted_quiet (m : Part) (code : FaultCode) (addr : Nat) : (m.enterFaulted code addr).quiet := by
  intro _
  have port (p : PortNo) : (m.enterFaulted code addr).port p = (m.port p).faulted := m.port_onPorts p Port.faulted
  refine ⟨fun p => ?_, fun t => ?_⟩
  · rw [port p]
    exact ⟨by simp [Part.queue, Part.enterFaulted, Vector.get], rfl, rfl, rfl, rfl⟩
  · simp [Part.claimList, Part.enterFaulted, Vector.get]

theorem Part.reset_port (p : PortNo) : Part.reset.port p = Port.reset := by
  simp [Part.port, Part.reset, Vector.get]

theorem Part.reset_quiet : Part.reset.quiet := by
  intro _
  refine ⟨fun p => ?_, fun t => ?_⟩
  · rw [Part.reset_port p]
    exact ⟨by simp [Part.queue, Part.reset, Vector.get], rfl, rfl, rfl, rfl⟩
  · simp [Part.claimList, Part.reset, Vector.get]

theorem Part.startLoading_quiet (m : Part) (base : Word) (idle : m.engine = .halted ∨ m.engine = .stopped)
    (h : m.quiet) : (m.startLoading base).quiet := by
  have was : m.engine.working = false := by rcases idle with e | e <;> rw [e] <;> rfl
  have now : (m.startLoading base).engine.working = m.engine.working := by
    rw [was]
    unfold Part.startLoading
    dsimp only
    split <;> rfl
  obtain ⟨queues, claims, ports⟩ : (m.startLoading base).queues = m.queues ∧ (m.startLoading base).claims = m.claims ∧
      (m.startLoading base).ports = m.ports := by
    unfold Part.startLoading
    dsimp only
    split <;> exact ⟨rfl, rfl, rfl⟩
  exact m.quiet_of_same _ now queues claims (fun p => by simp [Part.port, ports]) h

theorem Part.stopInLoading_quiet (m : Part) (loading : m.engine = .loading) (h : m.quiet) : m.stopInLoading.quiet := by
  have was : m.engine.working = false := by rw [loading]; rfl
  unfold Part.stopInLoading
  split
  · exact m.quiet_of_same _ rfl rfl rfl (fun p => ⟨rfl, rfl, rfl⟩) h
  all_goals exact m.quiet_of_same _ was.symm rfl rfl (fun p => ⟨rfl, rfl, rfl⟩) h

theorem Part.loaderReadDone_quiet (m : Part) (base : Word) (bytes : List Byte) (loading : m.engine = .loading)
    (h : m.quiet) : (m.loaderReadDone base bytes).quiet := by
  have was : m.engine.working = false := by rw [loading]; rfl
  have same (m' : Part) (engine : m'.engine.working = m.engine.working) (queues : m'.queues = m.queues)
      (claims : m'.claims = m.claims) (ports : m'.ports = m.ports) : m'.quiet :=
    m.quiet_of_same m' engine queues claims (fun p => by simp [Part.port, ports]) h
  unfold Part.loaderReadDone
  split
  · dsimp only
    split
    · exact same _ rfl rfl rfl rfl
    split
    · exact same _ rfl rfl rfl rfl
    · exact same _ was.symm rfl rfl rfl
  · dsimp only
    split <;> exact same _ rfl rfl rfl rfl
  all_goals exact h

theorem Part.sweepReadDone_quiet (m : Part) (base : Word) (bytes : List Byte) (h : m.quiet) :
    (m.sweepReadDone base bytes).quiet := by
  obtain ⟨queues, claims, ports⟩ : (m.sweepReadDone base bytes).queues = m.queues ∧
      (m.sweepReadDone base bytes).claims = m.claims ∧ (m.sweepReadDone base bytes).ports = m.ports := by
    unfold Part.sweepReadDone
    split <;> exact ⟨rfl, rfl, rfl⟩
  exact m.quiet_of_same _ (by rw [Part.engine_of_control _ _ (m.sweepReadDone_control base bytes)]) queues claims
    (fun p => by simp [Part.port, ports]) h

theorem Part.clearAllTallies_quiet (m : Part) (h : m.quiet) : m.clearAllTallies.quiet :=
  m.quiet_of_same _ rfl rfl rfl (fun p => by simp [Part.clearAllTallies, Port.clearTallies]) h

/-- A port without an access has none whose burst could end. -/
theorem Part.portBurstDone_quiet (m : Part) (p : PortNo) (len : Nat) (data : List Byte) (h : m.quiet) :
    (m.portBurstDone p len data).quiet := by
  cases working : m.engine.working with
  | true =>
    refine Part.quiet_of_working _ ?_
    rw [Part.engine_of_control m _ ?_, working]
    unfold Part.portBurstDone
    dsimp only
    (repeat' split) <;> simp
  | false =>
    obtain ⟨lines, -⟩ := h working
    obtain ⟨-, -, -, -, none⟩ := lines p
    simpa only [Part.portBurstDone, none] using h

theorem Part.writerDone_quiet (m : Part) (len : Nat) (h : m.quiet) : (m.writerDone len).quiet := by
  unfold Part.writerDone
  split
  · exact h
  · exact m.quiet_of_same _ rfl rfl rfl (fun p => ⟨rfl, rfl, rfl⟩) h

/-- An outstanding access says that the engine works. -/
theorem Part.portBusError_quiet (m : Part) (p : PortNo) (outstanding : (m.port p).access.isSome = true) (h : m.quiet) :
    (m.portBusError p).quiet := by
  cases working : m.engine.working with
  | true =>
    refine Part.quiet_of_working _ ?_
    rw [Part.engine_of_control m _ (m.portBusError_control p), working]
  | false =>
    obtain ⟨lines, -⟩ := h working
    obtain ⟨-, -, -, -, none⟩ := lines p
    simp [none] at outstanding

theorem Part.Piece.quiet {m m' : Part} {base : Word} (does : m.Piece base m') (working : m.engine.working = true) :
    m'.quiet := by
  obtain ⟨stage, control⟩ | rfl := does.control
  · have engine : m'.engine = m.engine := congrArg ControlView.engine control
    exact m'.quiet_of_working (by rw [engine, working])
  · exact Part.enterStopped_quiet _

theorem Part.clearEntry_quiet (m : Part) (base : Word) (p : PortNo) (rest : List PortNo) (h : m.quiet) :
    (m.clearEntry base p rest).quiet := by
  unfold Part.clearEntry
  dsimp only
  split <;> exact m.quiet_of_same _ rfl rfl rfl (fun p => ⟨rfl, rfl, rfl⟩) h

/-- The last step of the adoption ends in RUNNING, or in STOPPING when a STOP is held. -/
theorem Part.enterRunning_working (m : Part) (base : Word) : (m.enterRunning base).engine.working = true := by
  unfold Part.enterRunning
  dsimp only
  split <;> rfl

theorem Part.adoptEntry_quiet (m : Part) (base : Word) (k : Nat) (h : m.quiet) : (m.adoptEntry base k).quiet := by
  unfold Part.adoptEntry
  dsimp only
  split
  · exact m.quiet_of_same _ rfl rfl rfl (fun p => ⟨rfl, rfl, rfl⟩) h
  split
  · exact m.quiet_of_same _ rfl rfl rfl (fun p => ⟨rfl, rfl, rfl⟩) h
  split
  · refine m.quiet_of_same _ rfl rfl rfl (fun p => ?_) h
    have port : ∀ (q : PortNo), ((m.onPort q Port.clearTallies).port p).tx = (m.port p).tx ∧
        ((m.onPort q Port.clearTallies).port p).receiver = (m.port p).receiver ∧
        ((m.onPort q Port.clearTallies).port p).access = (m.port p).access := by
      intro q
      rw [Part.port_onPort_cases]
      split <;> exact ⟨rfl, rfl, rfl⟩
    exact port _
  · exact Part.quiet_of_working _ (Part.enterRunning_working _ base)

/-- The fields of which a law speaks, when only others have changed. -/
theorem Part.same_of_lawView (m m' : Part) (same : m'.lawView = m.lawView) :
    m'.engine = m.engine ∧ m'.faultCode = m.faultCode ∧ m'.setup = m.setup ∧ m'.loader = m.loader ∧
    m'.queues = m.queues ∧ m'.claims = m.claims ∧ m'.ports = m.ports ∧ m'.sweep = m.sweep ∧ m'.xq = m.xq := by
  simpa [Part.lawView] using same

theorem Part.quiet_law : Part.Law Part.quiet where
  frame m m' same h := by
    obtain ⟨engine, -, -, -, queues, claims, ports, -, -⟩ := m.same_of_lawView m' same
    exact m.quiet_of_same m' (by rw [engine]) queues claims (fun p => by simp [Part.port, ports]) h
  reset := Part.reset_quiet
  starts m base idle h := m.startLoading_quiet base idle h
  stopsLoading m loading h := m.stopInLoading_quiet loading h
  stops m _ _ := Part.quiet_of_working _ rfl
  sweepStarts m base working _ := Part.quiet_of_working _ working
  sweepLate m _ _ _ h := m.quiet_of_same _ rfl rfl rfl (fun _ => ⟨rfl, rfl, rfl⟩) h
  clears m h := m.clearAllTallies_quiet h
  loads m base bytes loading h := m.loaderReadDone_quiet base bytes loading h
  sweepReads m base bytes h := m.sweepReadDone_quiet base bytes h
  portBurst m p len data h := m.portBurstDone_quiet p len data h
  written m len h := m.writerDone_quiet len h
  portFails m p outstanding h := m.portBusError_quiet p outstanding h
  faults m code addr _ _ := m.enterFaulted_quiet code addr
  port m m' p working event _ := m'.quiet_of_working (by rw [Part.engine_of_control _ _ event.control, working])
  piece m m' base working does _ := does.quiet working
  quietPiece m m' base does h := by
    cases does with
    | clears p rest => exact m.clearEntry_quiet base p rest h
    | adopts k => exact m.adoptEntry_quiet base k h

/-- Settles O54: while the engine works the law says nothing, and the entries to STOPPED and FAULTED make the part
quiet; every other step outside RUNNING and STOPPING leaves queues, claims and lines as they are. -/
theorem quietOutsideRunningAndStopping : Obligations.QuietOutsideRunningAndStopping :=
  fun s t holds h => Part.quiet_law.step s t h holds

end Sys2Proof.Machine

/-! PROOF. What triggers, posts, completions and the claim unit's inputs leave of the ports, the claims, the sweep and the
exchange write queue; the fault code, the bound of the queue, sweep-pending and presence as laws (R143, R148, R149, R158,
R167, R176). -/

namespace Sys2Proof.Machine

/-! ### Triggers, deliveries and posts -/

/-- What no trigger, delivery or post touches, beside the fields of engine control. -/
structure BeyondPosts where
  causes : BitVec 5
  ports : Vector Port 4
  xq : List Entry
  others : BeyondSlots

def Part.beyondPosts (m : Part) : BeyondPosts := ⟨m.causes, m.ports, m.xq, m.beyondSlots⟩

theorem Part.same_of_beyondPosts {m m' : Part} (same : m'.beyondPosts = m.beyondPosts) :
    m'.causes = m.causes ∧ m'.ports = m.ports ∧ m'.xq = m.xq ∧ m'.claims = m.claims ∧ m'.tables = m.tables ∧
    m'.sweep = m.sweep ∧ m'.inbox = m.inbox ∧ m'.waiters = m.waiters ∧ m'.sweepAccess = m.sweepAccess := by
  simp only [Part.beyondPosts, Part.beyondSlots, BeyondPosts.mk.injEq, BeyondSlots.mk.injEq] at same
  obtain ⟨causes, ports, xq, tables, claims, inbox, sweep, waiters, access⟩ := same
  exact ⟨causes, ports, xq, claims, tables, sweep, inbox, waiters, access⟩

section Posts
variable (m : Part) (n : SlotNo)

@[simp] theorem Part.onSlot_beyondPosts (f : Slot → Slot) : (m.onSlot n f).beyondPosts = m.beyondPosts := rfl
@[simp] theorem Part.setQueue_beyondPosts (p : PortNo) (q : List SlotNo) :
    (m.setQueue p q).beyondPosts = m.beyondPosts := rfl
@[simp] theorem Part.tellPost_beyondPosts (k : JobKind) : (m.tellPost k).beyondPosts = m.beyondPosts := rfl
@[simp] theorem Part.with_tree_beyondPosts (tree : List TreeTask) :
    ({ m with tree := tree } : Part).beyondPosts = m.beyondPosts := rfl
@[simp] theorem Part.unqueue_beyondPosts : (m.unqueue n).beyondPosts = m.beyondPosts := rfl
@[simp] theorem Part.answerPost_beyondPosts (o : PostOutcome) : (m.answerPost n o).beyondPosts = m.beyondPosts := rfl

@[simp] theorem Part.requeue_beyondPosts : (m.requeue n).beyondPosts = m.beyondPosts := by
  unfold Part.requeue
  dsimp only
  split <;> simp

@[simp] theorem Part.placeTriggered_beyondPosts : (m.placeTriggered n).beyondPosts = m.beyondPosts := by
  unfold Part.placeTriggered
  dsimp only
  split <;> simp

@[simp] theorem Part.trigger_beyondPosts : (m.trigger n).beyondPosts = m.beyondPosts := by
  unfold Part.trigger
  (repeat' split) <;> simp

@[simp] theorem Part.takeExpiry_beyondPosts : (m.takeExpiry n).beyondPosts = m.beyondPosts := by
  unfold Part.takeExpiry
  split <;> simp

@[simp] theorem Part.triggerAll_beyondPosts (l : List SlotNo) : (l.foldl Part.trigger m).beyondPosts = m.beyondPosts := by
  induction l generalizing m with
  | nil => rfl
  | cons k l ih => rw [List.foldl_cons, ih, Part.trigger_beyondPosts]

@[simp] theorem Part.markFollowers_beyondPosts : (m.markFollowers n).beyondPosts = m.beyondPosts := by
  unfold Part.markFollowers
  generalize m.followers n = l
  induction l generalizing m with
  | nil => rfl
  | cons k l ih => rw [List.foldl_cons, ih, Part.onSlot_beyondPosts]

@[simp] theorem Part.deliver_beyondPosts (ok left : Bool) : (m.deliver n ok left).beyondPosts = m.beyondPosts := by
  unfold Part.deliver
  cases ok <;> cases left <;> simp

@[simp] theorem Part.takeOrder_beyondPosts (o : Order) : (m.takeOrder n o).beyondPosts = m.beyondPosts := by
  unfold Part.takeOrder
  dsimp only
  split <;> simp

@[simp] theorem Part.armPost_beyondPosts (o : Order) : (m.armPost n o).beyondPosts = m.beyondPosts := by
  unfold Part.armPost
  dsimp only
  (repeat' split) <;> simp

@[simp] theorem Part.tellLeft_beyondPosts : (m.tellLeft n).beyondPosts = m.beyondPosts := by
  simp [Part.tellLeft]

@[simp] theorem Part.withdrawPost_beyondPosts : (m.withdrawPost n).beyondPosts = m.beyondPosts := by
  unfold Part.withdrawPost
  dsimp only
  (repeat' split) <;> simp

end Posts

/-! ### Completions -/

/-- A completion queues its entry, may set SLOT_NOTIFY, and leaves all else beyond the slots and queues as it is. -/
theorem Part.complete_same (m : Part) (base : Word) (n : SlotNo) (c : Completion) :
    (∃ entry, (m.complete base n c).xq = m.xq ++ [entry]) ∧ (m.complete base n c).ports = m.ports := by
  have moved := Part.same_of_beyondPosts
    (((m.onSlot n fun x => completedSlot x c m.sweep.count).requeue_beyondPosts n).trans (m.onSlot_beyondPosts n _))
  obtain ⟨-, ports, xq, -⟩ := moved
  unfold Part.complete Part.notifySlot
  dsimp only
  split <;> exact ⟨⟨_, congrArg (· ++ _) xq⟩, ports⟩

theorem Part.completeAndDeliver_same (m : Part) (base : Word) (n : SlotNo) (c : Completion) :
    (∃ entry, (m.completeAndDeliver base n c).xq = m.xq ++ [entry]) ∧ (m.completeAndDeliver base n c).ports = m.ports := by
  obtain ⟨⟨entry, queued⟩, ports⟩ := m.complete_same base n c
  obtain ⟨-, ports', xq, -⟩ := Part.same_of_beyondPosts ((m.complete base n c).deliver_beyondPosts n
    (c.outcome == outcomeOk) (((m.complete base n c).slot n).state == .withdrawn))
  exact ⟨⟨entry, xq.trans queued⟩, ports'.trans ports⟩

/-- A task of the delivery tree queues at most the entry that it asks room for, and touches no port. -/
theorem Part.doTask_same (m : Part) (base : Word) (t : TreeTask) :
    ((m.doTask base t).xq = m.xq ∨ m.taskQueues t = true ∧ ∃ entry, (m.doTask base t).xq = m.xq ++ [entry]) ∧
    (m.doTask base t).ports = m.ports := by
  cases t with
  | word n => exact ⟨.inr ⟨rfl, _, rfl⟩, rfl⟩
  | failed n =>
    by_cases taken : (m.slot n).state = .taken
    · obtain ⟨queued, ports⟩ := m.completeAndDeliver_same base n (chainBroken .predecessorFailed)
      rw [Part.doTask, if_pos taken]
      exact ⟨.inr ⟨by simp [Part.taskQueues, taken], queued⟩, ports⟩
    · rw [Part.doTask, if_neg taken]
      exact ⟨.inl rfl, rfl⟩
  | left n =>
    by_cases taken : (m.slot n).state = .taken
    · obtain ⟨queued, ports⟩ := m.completeAndDeliver_same base n (chainBroken .predecessorLeft)
      rw [Part.doTask, if_pos taken]
      exact ⟨.inr ⟨by simp [Part.taskQueues, taken], queued⟩, ports⟩
    · rw [Part.doTask, if_neg taken]
      exact ⟨.inl rfl, rfl⟩

/-- The ending of a run taken: at most one entry, and of the ports only the run of this one is written. -/
theorem Part.takeEnding_same (m : Part) (base : Word) (p : PortNo) :
    ((m.takeEnding base p).xq = m.xq ∨ ∃ entry, (m.takeEnding base p).xq = m.xq ++ [entry]) ∧
    ((m.takeEnding base p).ports = m.ports ∨
      (m.takeEnding base p).ports = (m.onPort p fun x => { x with run := Run.initial }).ports) := by
  unfold Part.takeEnding
  split
  · next w e _ _ =>
    dsimp only
    split
    · obtain ⟨queued, ports⟩ := Part.completeAndDeliver_same (m.onPort p fun x => { x with run := Run.initial }) base
        w.slot ((m.port p).run.completion e)
      exact ⟨.inr queued, .inr ports⟩
    · obtain ⟨queued, ports⟩ := Part.complete_same (m.onPort p fun x => { x with run := Run.initial }) base
        w.slot ((m.port p).run.completion e)
      exact ⟨.inr queued, .inr ports⟩
  · exact ⟨.inl rfl, .inl rfl⟩

theorem Part.doJob_xq (m : Part) (base : Word) (k : JobKind) :
    (m.doJob base k).xq = m.xq ∨ k.queues = true ∧ ∃ entry, (m.doJob base k).xq = m.xq ++ [entry] := by
  cases k with
  | runEnding p => exact (m.takeEnding_same base p).1.imp_right fun queued => ⟨rfl, queued⟩
  | postWord n | takeWord n => exact .inr ⟨rfl, _, rfl⟩
  | rejection n notify => cases notify <;> exact .inr ⟨rfl, _, rfl⟩
  | expiry n => exact .inl (Part.same_of_beyondPosts (m.takeExpiry_beyondPosts n)).2.2.1

/-! ### The claim unit's inputs -/

theorem Part.xq_of_beyondPorts {m m' : Part} (same : m'.beyondPorts = m.beyondPorts) : m'.xq = m.xq :=
  congrArg BeyondPorts.xq same

theorem Part.sweep_of_beyondPorts {m m' : Part} (same : m'.beyondPorts = m.beyondPorts) : m'.sweep = m.sweep :=
  congrArg BeyondPorts.sweep same

theorem Part.claims_of_beyondPorts {m m' : Part} (same : m'.beyondPorts = m.beyondPorts) : m'.claims = m.claims :=
  congrArg BeyondPorts.claims same

theorem Part.claimLeaves_xq (m : Part) (t : TableNo) (who : Claimant) : (m.claimLeaves t who).xq = m.xq := by
  obtain ⟨-, -, -, -, -, rest⟩ := m.claimLeaves_spec t who
  rw [rest]

theorem Part.tellGranted_xq (m : Part) (t : TableNo) (who : Claimant) : (m.tellGranted t who).xq = m.xq := by
  cases who with
  | port p => exact Part.xq_of_beyondPorts (m.claimGranted_beyondPorts p)
  | hold => rfl

theorem Part.claimArrives_xq (m : Part) (t : TableNo) (c : Claim) : (m.claimArrives t c).xq = m.xq := by
  unfold Part.claimArrives
  split
  · exact Part.tellGranted_xq _ t c.claimant
  · rfl

theorem Part.portLeaves_xq (m : Part) (base : Word) (p : PortNo) :
    (m.portLeaves base p).xq = m.xq ∨ m.leaveGrantsHold p = true ∧ ∃ entry, (m.portLeaves base p).xq = m.xq ++ [entry] := by
  unfold Part.portLeaves
  split
  · exact .inl rfl
  · next t _ =>
    dsimp only
    split
    · next grants => exact .inr ⟨grants, _, congrArg (· ++ _) (m.claimLeaves_xq t (.port p))⟩
    · exact .inl (m.claimLeaves_xq t (.port p))

theorem Part.recordStore_xq (m : Part) (base : Word) (p : PortNo) :
    ∃ entry, (m.recordStore base p).xq = m.xq ++ [entry] := by
  unfold Part.recordStore
  dsimp only
  split <;> exact ⟨_, rfl⟩

theorem Part.storeApplied_xq (m : Part) (base : Word) (p : PortNo) :
    ∃ entry, (m.storeApplied base p).xq = m.xq ++ [entry] := by
  obtain ⟨entry, queued⟩ := m.recordStore_xq base p
  refine ⟨entry, ?_⟩
  unfold Part.storeApplied
  rw [Part.xq_of_beyondPorts (Part.reply_beyondPorts _ p _), ← queued]
  (repeat' split) <;> rfl

theorem Part.takeHoldPost_xq (m : Part) (base : Word) (t : TableNo) (wanted : Byte) (post : Half) :
    ∃ entry, (m.takeHoldPost base t wanted post).xq = m.xq ++ [entry] := by
  unfold Part.takeHoldPost
  dsimp only
  refine ⟨_, congrArg (· ++ _) ?_⟩
  split <;> split
  · rfl
  · exact Part.claimArrives_xq _ t _
  · exact Part.claimLeaves_xq _ t .hold
  · rfl

/-- An input of the claim unit queues at most the entry that it asks room for. -/
theorem Part.doInput_xq (m : Part) (base : Word) (i : ClaimInput) :
    (m.doInput base i).xq = m.xq ∨ m.inputQueues i = true ∧ ∃ entry, (m.doInput base i).xq = m.xq ++ [entry] := by
  cases i with
  | arrive p t mode first count => exact .inl (m.claimArrives_xq t _)
  | leave p => exact m.portLeaves_xq base p
  | stored p => exact .inr ⟨rfl, m.storeApplied_xq base p⟩
  | expire p =>
    simp only [Part.doInput, Part.claimExpires, Part.inputQueues]
    split
    · next runs =>
      rw [Part.xq_of_beyondPorts (Part.claimTimedOut_beyondPorts _ p), runs, Bool.true_and]
      exact m.portLeaves_xq base p
    · exact .inl rfl
  | holdPost t wanted post =>
    by_cases seen : (m.table t).seenHold = post
    · exact .inl (by simp [Part.doInput, seen])
    · have changed : ((m.table t).seenHold == post) = false := by simpa using seen
      simp only [Part.doInput, changed, Bool.false_eq_true, if_false]
      exact .inr ⟨by simpa [Part.inputQueues] using seen, m.takeHoldPost_xq base t wanted post⟩

/-! ### The steps of a sweep -/

/-- The sweep goes on to another phase, and ports, claims and queue stay as they are. -/
structure Part.SweepGoesOn (m m' : Part) : Prop where
  ports : m'.ports = m.ports
  claims : m'.claims = m.claims
  xq : m'.xq = m.xq
  sweep : ∃ phase, phase ≠ .idle ∧ m'.sweep = { m.sweep with phase := phase }

theorem Part.SweepGoesOn.of_posts {m m' : Part} (same : m'.beyondPosts = m.beyondPosts) (phase : SweepPhase)
    (busy : phase ≠ .idle) : m.SweepGoesOn (m'.setSweepPhase phase) := by
  obtain ⟨-, ports, xq, claims, -, sweep, -⟩ := Part.same_of_beyondPosts same
  exact ⟨ports, claims, xq, phase, busy, by rw [← sweep]; rfl⟩

theorem Part.afterSlot_goesOn (m : Part) (base : Word) (n : Nat) : m.SweepGoesOn (m.afterSlot base n) := by
  unfold Part.afterSlot
  split <;> exact ⟨rfl, rfl, rfl, _, SweepPhase.noConfusion, rfl⟩

theorem Part.handPost_goesOn (m : Part) (base : Word) (n : Nat) : m.SweepGoesOn (m.handPost base n) := by
  unfold Part.handPost
  dsimp only
  split
  · exact m.afterSlot_goesOn base n
  split
  · split
    · exact ⟨rfl, rfl, rfl, _, SweepPhase.noConfusion, rfl⟩
    · exact .of_posts (by simp) _ SweepPhase.noConfusion
  · exact .of_posts (by simp) _ SweepPhase.noConfusion
  · exact .of_posts (by simp) _ SweepPhase.noConfusion

theorem Part.sweepReadDone_goesOn (m : Part) (base : Word) (bytes : List Byte) :
    (m.sweepReadDone base bytes).ports = m.ports ∧ (m.sweepReadDone base bytes).claims = m.claims ∧
    (m.sweepReadDone base bytes).xq = m.xq ∧
    (m.sweepReadDone base bytes = m ∨ ∃ v : Sweep, (m.sweepReadDone base bytes).sweep = v ∧ v.phase ≠ .idle ∧
      v = { m.sweep with phase := v.phase, markRead := v.markRead, word := v.word, orderRead := v.orderRead }) := by
  unfold Part.sweepReadDone
  split
  case h_1 | h_2 | h_3 | h_4 => exact ⟨rfl, rfl, rfl, .inr ⟨_, rfl, SweepPhase.noConfusion, rfl⟩⟩
  all_goals exact ⟨rfl, rfl, rfl, .inl rfl⟩

theorem Part.evaluatePresence_same (m : Part) :
    m.evaluatePresence.ports = m.ports ∧ m.evaluatePresence.claims = m.claims ∧ m.evaluatePresence.xq = m.xq := by
  unfold Part.evaluatePresence
  dsimp only
  split <;> exact ⟨rfl, rfl, rfl⟩

theorem Part.afterHold_same (m : Part) (base : Word) (t : Nat) :
    (m.afterHold base t).ports = m.ports ∧ (m.afterHold base t).claims = m.claims ∧ (m.afterHold base t).xq = m.xq := by
  unfold Part.afterHold
  split
  · exact ⟨rfl, rfl, rfl⟩
  · exact m.evaluatePresence_same

/-- An entry of a sweep: ports and claims stay as they are, and one entry is queued. -/
theorem Part.sweepEntry_same (m m' : Part) (base : Word) (h : m.sweepEntry base = some m') :
    m'.ports = m.ports ∧ m'.claims = m.claims ∧ ∃ entry, m'.xq = m.xq ++ [entry] := by
  unfold Part.sweepEntry at h
  split at h
  · cases h
    exact ⟨rfl, rfl, _, rfl⟩
  · cases h
    unfold Part.endSweep
    dsimp only
    split <;> exact ⟨rfl, rfl, _, rfl⟩
  all_goals cases h

theorem Part.releaseHold_xq (m : Part) (base : Word) (t : TableNo) :
    ∃ entry, (m.releaseHold base t).xq = m.xq ++ [entry] :=
  ⟨_, congrArg (· ++ _) (Part.claimLeaves_xq _ t .hold)⟩

/-! ### The exchange write queue (R158) -/

theorem queueBounded_of_same (m m' : Part) (same : m'.xq = m.xq) (h : m.queueBounded) : m'.queueBounded := by
  rwa [Part.queueBounded, same]

theorem queueBounded_of_push (m m' : Part) (room : m.xq.length < 24) (queued : ∃ entry, m'.xq = m.xq ++ [entry]) :
    m'.queueBounded := by
  obtain ⟨entry, queued⟩ := queued
  simp only [Part.queueBounded, queued, List.length_append, List.length_singleton]
  omega

theorem queueBounded_of_room (m m' : Part) (queues : Bool) (room : queues = true → m.xq.length < 24)
    (does : m'.xq = m.xq ∨ queues = true ∧ ∃ entry, m'.xq = m.xq ++ [entry]) (h : m.queueBounded) :
    m'.queueBounded := by
  obtain same | ⟨asks, queued⟩ := does
  · exact queueBounded_of_same m m' same h
  · exact queueBounded_of_push m m' (room asks) queued

theorem Part.Piece.queueBounded {m m' : Part} {base : Word} (does : m.Piece base m') (h : m.queueBounded) :
    m'.queueBounded := by
  cases does with
  | input i room => exact queueBounded_of_room m _ _ room (m.doInput_xq base i) h
  | task t room => exact queueBounded_of_room m _ _ room (m.doTask_same base t).1 h
  | job k room => exact queueBounded_of_room m _ _ room (m.doJob_xq base k) h
  | resumes p => exact queueBounded_of_same m _ (Part.xq_of_beyondPorts (m.resumeRun_beyondPorts p)) h
  | head p n rest =>
    have same := Part.xq_of_beyondPorts ((m.setQueue p rest).beginRun_beyondPorts p n)
    exact queueBounded_of_same m _ same h
  | post n => exact queueBounded_of_same m _ (m.handPost_goesOn base n).xq h
  | arms n o => exact queueBounded_of_same m _ (Part.same_of_beyondPosts (m.armPost_beyondPosts _ o)).2.2.1 h
  | slotDone n => exact queueBounded_of_same m _ (m.afterSlot_goesOn base n).xq h
  | holdDone t => exact queueBounded_of_same m _ (m.afterHold_same base t).2.2 h
  | sweep m' entry room => exact queueBounded_of_push m _ room (m.sweepEntry_same m' base entry).2.2
  | stop m' entry room =>
    obtain ⟨t, stage, rfl⟩ | ⟨n, stage, rfl⟩ | rfl := m.stopEntry_cases m' base entry
    · exact queueBounded_of_push m _ room (m.releaseHold_xq base t)
    · exact queueBounded_of_push m _ room (m.complete_same base n _).1
    · exact queueBounded_of_push m _ room ⟨_, rfl⟩

theorem Part.clearEntry_xq (m : Part) (base : Word) (p : PortNo) (rest : List PortNo) :
    ∃ entry, (m.clearEntry base p rest).xq = m.xq ++ [entry] := by
  unfold Part.clearEntry
  dsimp only
  split <;> exact ⟨_, rfl⟩

theorem Part.adoptEntry_xq (m : Part) (base : Word) (k : Nat) :
    ∃ entry, (m.adoptEntry base k).xq = m.xq ++ [entry] := by
  unfold Part.adoptEntry Part.enterRunning
  dsimp only
  (repeat' split) <;> exact ⟨_, rfl⟩

theorem Part.loaderReadDone_same (m : Part) (base : Word) (bytes : List Byte) :
    (m.loaderReadDone base bytes).xq = m.xq ∧ (m.loaderReadDone base bytes).ports = m.ports ∧
    (m.loaderReadDone base bytes).claims = m.claims ∧ (m.loaderReadDone base bytes).sweep = m.sweep := by
  unfold Part.loaderReadDone
  dsimp only
  (repeat' split) <;> exact ⟨rfl, rfl, rfl, rfl⟩

theorem Part.startLoading_same (m : Part) (base : Word) :
    (m.startLoading base).xq = m.xq ∧ (m.startLoading base).ports = m.ports ∧
    (m.startLoading base).claims = m.claims ∧ (m.startLoading base).sweep = m.sweep := by
  unfold Part.startLoading
  dsimp only
  split <;> exact ⟨rfl, rfl, rfl, rfl⟩

theorem Part.stopInLoading_same (m : Part) :
    m.stopInLoading.xq = m.xq ∧ m.stopInLoading.ports = m.ports ∧ m.stopInLoading.claims = m.claims ∧
    m.stopInLoading.sweep = m.sweep := by
  unfold Part.stopInLoading
  split <;> exact ⟨rfl, rfl, rfl, rfl⟩

theorem Part.portBurstDone_beyondPorts (m : Part) (p : PortNo) (len : Nat) (data : List Byte) :
    (m.portBurstDone p len data).beyondPorts = m.beyondPorts := by
  unfold Part.portBurstDone
  dsimp only
  (repeat' split) <;> simp

theorem Part.portBurstDone_control (m : Part) (p : PortNo) (len : Nat) (data : List Byte) :
    (m.portBurstDone p len data).control = m.control := by
  unfold Part.portBurstDone
  dsimp only
  (repeat' split) <;> simp

theorem Part.writerDone_queueBounded (m : Part) (len : Nat) (h : m.queueBounded) : (m.writerDone len).queueBounded := by
  unfold Part.writerDone
  split
  · exact h
  · next e rest queue =>
    rw [Part.queueBounded, queue] at h
    simp only [Part.queueBounded, List.length_cons] at h ⊢
    split
    · exact Nat.le_of_succ_le h
    · exact h

theorem Part.queueBounded_law : Part.Law Part.queueBounded where
  frame m m' same h := queueBounded_of_same m m' (m.same_of_lawView m' same).2.2.2.2.2.2.2.2 h
  reset := Nat.zero_le _
  starts m base _ h := queueBounded_of_same m _ (m.startLoading_same base).1 h
  stopsLoading m _ h := queueBounded_of_same m _ m.stopInLoading_same.1 h
  stops _ _ h := h
  sweepStarts _ _ _ h := h
  sweepLate _ _ _ _ h := h
  clears _ h := h
  loads m base bytes _ h := queueBounded_of_same m _ (m.loaderReadDone_same base bytes).1 h
  sweepReads m base bytes h := queueBounded_of_same m _ (m.sweepReadDone_goesOn base bytes).2.2.1 h
  portBurst m p len data h := queueBounded_of_same m _ (Part.xq_of_beyondPorts (m.portBurstDone_beyondPorts p len data)) h
  written m len h := m.writerDone_queueBounded len h
  portFails m p _ h := queueBounded_of_same m _ (Part.xq_of_beyondPorts (m.portBusError_beyondPorts p)) h
  faults _ _ _ _ _ := Nat.zero_le _
  port m m' p _ event h := queueBounded_of_same m m' (Part.xq_of_beyondPorts event.beyondPorts) h
  piece m m' base _ does h := does.queueBounded h
  quietPiece m m' base does _ := by
    cases does with
    | clears p rest room => exact queueBounded_of_push m _ room (m.clearEntry_xq base p rest)
    | adopts k _ room => exact queueBounded_of_push m _ room (m.adoptEntry_xq base k)

/-- Settles O56: every piece of work queues at most one entry, and only with room for it. -/
theorem exchangeQueueNeverOverflows : Obligations.ExchangeQueueNeverOverflows :=
  fun s t holds h => Part.queueBounded_law.step s t h holds

/-! ### The fault code (R167, R176) -/

theorem faultCodeAgrees_of_control (m m' : Part) (stage : Option StopStage)
    (same : m'.control = { m.control with stopSequence := stage }) (h : m.faultCodeAgrees) : m'.faultCodeAgrees := by
  have engine : m'.engine = m.engine := congrArg ControlView.engine same
  have code : m'.faultCode = m.faultCode := congrArg ControlView.faultCode same
  have loader : m'.loader = m.loader := congrArg ControlView.loader same
  rwa [Part.faultCodeAgrees, engine, code, loader]

/-- The engine goes to another state than FAULTED with no LOADING under way, or in LOADING. -/
theorem Part.faultCodeAgrees.moves {m : Part} (h : m.faultCodeAgrees) (notFaulted : m.engine ≠ .faulted) (m' : Part)
    (code : m'.faultCode = m.faultCode) (engine : m'.engine ≠ .faulted)
    (phase : m'.loader.phase = .idle ∨ m'.engine = .loading) : m'.faultCodeAgrees := by
  obtain ⟨agrees, -⟩ := h
  have none : m.faultCode = .none := by
    by_contra some
    exact notFaulted (agrees.2 some)
  exact ⟨⟨fun e => absurd e engine, fun e => absurd (code.trans none) e⟩, fun busy => phase.resolve_left busy⟩

theorem Part.faultCodeAgrees.idle {m : Part} (h : m.faultCodeAgrees) (other : m.engine ≠ .loading) :
    m.loader.phase = .idle := by
  by_contra busy
  exact other (h.2 busy)

theorem Part.ne_of_working {m : Part} (working : m.engine.working = true) :
    m.engine ≠ .faulted ∧ m.engine ≠ .loading := by
  constructor <;> intro e <;> rw [e] at working <;> cases working

theorem Part.loaderReadDone_faultCodeAgrees (m : Part) (base : Word) (bytes : List Byte) (loading : m.engine = .loading)
    (h : m.faultCodeAgrees) : (m.loaderReadDone base bytes).faultCodeAgrees := by
  have notFaulted : m.engine ≠ .faulted := by rw [loading]; exact EngineState.noConfusion
  unfold Part.loaderReadDone
  split
  · dsimp only
    split
    · exact h.moves notFaulted _ rfl notFaulted (.inr loading)
    split
    · exact h.moves notFaulted _ rfl notFaulted (.inr loading)
    · exact h.moves notFaulted _ rfl EngineState.noConfusion (.inl rfl)
  · dsimp only
    split <;> exact h.moves notFaulted _ rfl notFaulted (.inr loading)
  all_goals exact h

theorem Part.clearEntry_faultCodeAgrees (m : Part) (base : Word) (p : PortNo) (rest : List PortNo)
    (h : m.faultCodeAgrees) : (m.clearEntry base p rest).faultCodeAgrees := by
  unfold Part.clearEntry
  dsimp only
  split
  · next last =>
    have loading : m.engine = .loading := h.2 (by rw [show m.loader.phase = .clearing from last.2]; exact LoadPhase.noConfusion)
    have notFaulted : m.engine ≠ .faulted := by rw [loading]; exact EngineState.noConfusion
    exact h.moves notFaulted _ rfl notFaulted (.inr loading)
  · exact h

theorem Part.adoptEntry_faultCodeAgrees (m : Part) (base : Word) (k : Nat) (phase : m.loader.phase = .adopting k)
    (h : m.faultCodeAgrees) : (m.adoptEntry base k).faultCodeAgrees := by
  have loading : m.engine = .loading := h.2 (by rw [phase]; exact LoadPhase.noConfusion)
  have notFaulted : m.engine ≠ .faulted := by rw [loading]; exact EngineState.noConfusion
  unfold Part.adoptEntry
  dsimp only
  split
  · exact h.moves notFaulted _ rfl notFaulted (.inr loading)
  split
  · exact h.moves notFaulted _ rfl notFaulted (.inr loading)
  split
  · exact h.moves notFaulted _ rfl notFaulted (.inr loading)
  · unfold Part.enterRunning
    dsimp only
    split <;> exact h.moves notFaulted _ rfl EngineState.noConfusion (.inl rfl)

theorem Part.faultCodeAgrees_law : Part.Law Part.faultCodeAgrees where
  frame m m' same h := by
    obtain ⟨engine, code, -, loader, -⟩ := m.same_of_lawView m' same
    rwa [Part.faultCodeAgrees, engine, code, loader]
  reset := ⟨⟨EngineState.noConfusion, fun some => absurd rfl some⟩, fun busy => absurd rfl busy⟩
  starts m base idle h := by
    have notFaulted : m.engine ≠ .faulted := by rcases idle with e | e <;> rw [e] <;> exact EngineState.noConfusion
    unfold Part.startLoading
    dsimp only
    split <;> exact h.moves notFaulted _ rfl EngineState.noConfusion (.inr rfl)
  stopsLoading m loading h := by
    have notFaulted : m.engine ≠ .faulted := by rw [loading]; exact EngineState.noConfusion
    unfold Part.stopInLoading
    split
    · exact h.moves notFaulted _ rfl notFaulted (.inr loading)
    all_goals exact h.moves notFaulted _ rfl EngineState.noConfusion (.inl rfl)
  stops m running h := by
    have notFaulted : m.engine ≠ .faulted := by rw [running]; exact EngineState.noConfusion
    exact h.moves notFaulted _ rfl EngineState.noConfusion
      (.inl (h.idle (by rw [running]; exact EngineState.noConfusion)))
  sweepStarts _ _ _ h := h
  sweepLate _ _ _ _ h := h
  clears _ h := h
  loads m base bytes loading h := m.loaderReadDone_faultCodeAgrees base bytes loading h
  sweepReads m base bytes h := faultCodeAgrees_of_control m _ _ (m.sweepReadDone_control base bytes) h
  portBurst m p len data h := faultCodeAgrees_of_control m _ _ (m.portBurstDone_control p len data) h
  written m len h := by
    unfold Part.writerDone
    split <;> exact h
  portFails m p _ h := faultCodeAgrees_of_control m _ _ (m.portBusError_control p) h
  faults m code addr some _ := ⟨⟨fun _ => some, fun _ => rfl⟩, fun busy => absurd rfl busy⟩
  port m m' p _ event h := faultCodeAgrees_of_control m m' _ event.control h
  piece m m' base working does h := by
    obtain ⟨stage, same⟩ | rfl := does.control
    · exact faultCodeAgrees_of_control m m' stage same h
    · obtain ⟨notFaulted, notLoading⟩ := Part.ne_of_working working
      exact h.moves notFaulted _ rfl EngineState.noConfusion (.inl (h.idle notLoading))
  quietPiece m m' base does h := by
    cases does with
    | clears p rest => exact m.clearEntry_faultCodeAgrees base p rest h
    | adopts k phase => exact m.adoptEntry_faultCodeAgrees base k phase h

/-! ### Sweep-pending and presence (R143, R148, R149) -/

/-- Sweep-pending and presence, the two laws of the sweep unit. -/
def Part.sweepLaws (m : Part) : Prop := m.pendingLaw ∧ m.presenceLaw

/-- The laws of the sweep unit, when the sweep is as it was or goes on, with its silence count and presence as they were. -/
theorem Part.sweepLaws.goesOn {m : Part} (h : m.sweepLaws) (m' : Part)
    (engine : m'.engine.working = true → m.engine.working = true) (setup : m'.setup = m.setup)
    (pending : m'.sweep.phase ≠ .idle ∨ m'.sweep.pending = false ∨ m'.sweep = m.sweep)
    (presence : m'.sweep.presence = m.sweep.presence ∧ m'.sweep.silence = m.sweep.silence) : m'.sweepLaws := by
  obtain ⟨wasPending, wasPresence⟩ := h
  refine ⟨fun idle => ?_, fun working absent => ?_⟩
  · rcases pending with busy | clear | same
    · exact absurd idle busy
    · exact clear
    · rw [same] at idle ⊢
      exact wasPending idle
  · rw [presence.1] at absent
    rw [setup, presence.2]
    exact wasPresence (engine working) absent

theorem Part.sweepLaws.same {m : Part} (h : m.sweepLaws) (m' : Part)
    (engine : m'.engine.working = true → m.engine.working = true) (setup : m'.setup = m.setup)
    (sweep : m'.sweep = m.sweep) : m'.sweepLaws :=
  h.goesOn m' engine setup (.inr (.inr sweep)) (by rw [sweep]; exact ⟨rfl, rfl⟩)

theorem Part.sweepLaws.of_control {m : Part} (h : m.sweepLaws) (m' : Part) (control : m'.control = m.control)
    (sweep : m'.sweep = m.sweep) : m'.sweepLaws :=
  h.same m' (by rw [Part.engine_of_control _ _ control]; exact id) (Part.setup_of_control _ _ control) sweep

/-- A part in which no sweep is in progress, sweep-pending is clear and host software is PRESENT, or does not matter. -/
theorem Part.sweepLaws_of_clear (m : Part) (pending : m.sweep.pending = false)
    (present : m.engine.working = true → m.sweep.presence = .present) : m.sweepLaws :=
  ⟨fun _ => pending, fun working absent => by rw [present working] at absent; cases absent⟩

theorem evalPresence_absent (limit : Byte) (w : Sweep)
    (was : w.presence = .absent → limit ≠ 0 ∧ w.silence = limit) (absent : (evalPresence limit w).presence = .absent) :
    limit ≠ 0 ∧ (evalPresence limit w).silence = limit := by
  unfold evalPresence at absent ⊢
  cases last : w.lastMark with
  | none =>
    simp only [last] at absent ⊢
    exact was absent
  | some k =>
    simp only [last] at absent ⊢
    by_cases changed : w.markRead ≠ k
    · simp [if_pos changed] at absent
    · simp only [if_neg changed] at absent ⊢
      cases presence : w.presence with
      | absent =>
        exact was presence
      | present =>
        simp only [presence] at absent ⊢
        by_cases noLimit : limit = 0
        · simp [noLimit] at absent
        · rw [if_neg noLimit] at absent ⊢
          by_cases below : w.silence.toNat + 1 < limit.toNat
          · simp [below] at absent
          · rw [if_neg below]
            exact ⟨noLimit, rfl⟩

theorem Part.afterHold_sweepLaws (m : Part) (base : Word) (t : Nat) (working : m.engine.working = true)
    (h : m.sweepLaws) : (m.afterHold base t).sweepLaws := by
  unfold Part.afterHold
  split
  · exact h.goesOn _ id rfl (.inl SweepPhase.noConfusion) ⟨rfl, rfl⟩
  · refine ⟨fun idle => absurd (show SweepPhase.report 0 = .idle from idle) SweepPhase.noConfusion, fun _ absent => ?_⟩
    have setup : m.evaluatePresence.setup = m.setup := Part.setup_of_control _ _ m.evaluatePresence_control
    have sweep := m.evaluatePresence_sweep
    simp only [Part.setSweepPhase_fields, setup, sweep] at absent ⊢
    exact evalPresence_absent _ m.sweep (h.2 working) absent

theorem Part.sweepEntry_sweepLaws (m m' : Part) (base : Word) (entry : m.sweepEntry base = some m') (h : m.sweepLaws) :
    m'.sweepLaws := by
  unfold Part.sweepEntry at entry
  split at entry
  · cases entry
    refine h.goesOn _ id rfl (.inl ?_) ⟨rfl, rfl⟩
    show (if _ then _ else _ : SweepPhase) ≠ .idle
    split <;> exact SweepPhase.noConfusion
  · cases entry
    unfold Part.endSweep
    dsimp only
    split
    · exact h.goesOn _ id rfl (.inl SweepPhase.noConfusion) ⟨rfl, rfl⟩
    · exact h.goesOn _ id rfl (.inr (.inl rfl)) ⟨rfl, rfl⟩
  all_goals cases entry

theorem Part.SweepGoesOn.sweepLaws {m m' : Part} (goes : m.SweepGoesOn m') (control : m'.control = m.control)
    (h : m.sweepLaws) : m'.sweepLaws := by
  obtain ⟨-, -, -, phase, busy, sweep⟩ := goes
  exact h.goesOn m' (by rw [Part.engine_of_control _ _ control]; exact id) (Part.setup_of_control _ _ control)
    (.inl (by rw [sweep]; exact busy)) (by rw [sweep]; exact ⟨rfl, rfl⟩)

theorem Part.sweepReadDone_sweepLaws (m : Part) (base : Word) (bytes : List Byte) (h : m.sweepLaws) :
    (m.sweepReadDone base bytes).sweepLaws := by
  have control := m.sweepReadDone_control base bytes
  obtain ⟨-, -, -, same | ⟨v, sweep, busy, rest⟩⟩ := m.sweepReadDone_goesOn base bytes
  · rwa [same]
  · refine h.goesOn _ (by rw [Part.engine_of_control _ _ control]; exact id) (Part.setup_of_control _ _ control)
      (.inl (by rw [sweep]; exact busy)) ?_
    rw [sweep, rest]
    exact ⟨rfl, rfl⟩

theorem Part.Piece.sweepLaws {m m' : Part} {base : Word} (does : m.Piece base m') (working : m.engine.working = true)
    (h : m.sweepLaws) : m'.sweepLaws := by
  cases does with
  | input i =>
    exact h.of_control _ (m.doInput_control base i) (congrArg BeyondClaims.sweep (m.doInput_beyondClaims base i))
  | task t => exact h.of_control _ (m.doTask_control base t) (congrArg BeyondSlots.sweep (m.doTask_beyondSlots base t))
  | job k => exact h.of_control _ (m.doJob_control base k) (congrArg BeyondSlots.sweep (m.doJob_beyondSlots base k))
  | resumes p =>
    exact h.of_control _ (m.resumeRun_control p) (Part.sweep_of_beyondPorts (m.resumeRun_beyondPorts p))
  | head p n rest =>
    have same := Part.sweep_of_beyondPorts ((m.setQueue p rest).beginRun_beyondPorts p n)
    exact h.of_control _ ((m.setQueue p rest).beginRun_control p n) same
  | post n => exact (m.handPost_goesOn base n).sweepLaws (m.handPost_control base n) h
  | arms n o =>
    exact (Part.SweepGoesOn.of_posts (m.armPost_beyondPosts _ o) (.postWait n) SweepPhase.noConfusion).sweepLaws
      (m.armPost_control _ o) h
  | slotDone n => exact (m.afterSlot_goesOn base n).sweepLaws (m.afterSlot_control base n) h
  | holdDone t => exact m.afterHold_sweepLaws base t working h
  | sweep m' entry => exact m.sweepEntry_sweepLaws m' base entry h
  | stop m' entry =>
    obtain ⟨t, stage, rfl⟩ | ⟨n, stage, rfl⟩ | rfl := m.stopEntry_cases m' base entry
    · exact Part.sweepLaws.of_control h (m.releaseHold base t) (m.releaseHold_control base t)
        (congrArg BeyondClaims.sweep (Part.claimLeaves_beyondClaims _ t .hold))
    · exact Part.sweepLaws.of_control h (m.complete base n _) (m.complete_control base n _)
        (congrArg BeyondSlots.sweep (m.complete_beyondSlots base n _))
    · exact Part.sweepLaws_of_clear _ rfl fun working => by cases working

theorem Part.adoptEntry_sweepLaws (m : Part) (base : Word) (k : Nat) (h : m.sweepLaws) :
    (m.adoptEntry base k).sweepLaws := by
  unfold Part.adoptEntry
  dsimp only
  split
  · exact h.same _ id rfl rfl
  split
  · exact h.same _ id rfl rfl
  split
  · exact h.same _ id rfl rfl
  · unfold Part.enterRunning
    dsimp only
    split <;> exact Part.sweepLaws_of_clear _ rfl fun _ => rfl

theorem Part.not_working_of {m : Part} {e : EngineState} (engine : m.engine = e) (idle : e.working = false) (c : Prop)
    (working : m.engine.working = true) : c := by
  rw [engine, idle] at working
  cases working

theorem Part.loaderReadDone_working (m : Part) (base : Word) (bytes : List Byte) (loading : m.engine = .loading) :
    (m.loaderReadDone base bytes).engine.working = false := by
  have was : m.engine.working = false := by rw [loading]; rfl
  unfold Part.loaderReadDone
  dsimp only
  split
  · split
    · exact was
    split
    · exact was
    · rfl
  · split <;> exact was
  all_goals exact was

theorem Part.sweepLaws_law : Part.Law Part.sweepLaws where
  frame m m' same h := by
    obtain ⟨engine, -, setup, -, -, -, -, sweep, -⟩ := m.same_of_lawView m' same
    exact h.same m' (by rw [engine]; exact id) setup sweep
  reset := Part.sweepLaws_of_clear _ rfl fun _ => rfl
  starts m base _ h := by
    refine ⟨by rw [Part.pendingLaw, (m.startLoading_same base).2.2.2]; exact h.1, fun working => ?_⟩
    have loading : (m.startLoading base).engine = .loading := by
      unfold Part.startLoading
      dsimp only
      split <;> rfl
    exact Part.not_working_of loading rfl _ working
  stopsLoading m loading h := by
    refine ⟨by rw [Part.pendingLaw, m.stopInLoading_same.2.2.2]; exact h.1, fun working => ?_⟩
    unfold Part.stopInLoading at working ⊢
    split at working
    · exact Part.not_working_of loading rfl _ working
    all_goals cases working
  stops m running h := h.same _ (fun _ => by rw [running]; rfl) rfl rfl
  sweepStarts m base _ h := h.goesOn _ id rfl (.inl SweepPhase.noConfusion) ⟨rfl, rfl⟩
  sweepLate m v same busy h := by
    refine h.goesOn _ id rfl (.inl ?_) ?_
    · show v.phase ≠ .idle
      rw [same]
      exact busy
    · show v.presence = _ ∧ v.silence = _
      rw [same]
      exact ⟨rfl, rfl⟩
  clears m h := h.same _ id rfl rfl
  loads m base bytes loading h := by
    refine ⟨by rw [Part.pendingLaw, (m.loaderReadDone_same base bytes).2.2.2]; exact h.1, fun working => ?_⟩
    rw [m.loaderReadDone_working base bytes loading] at working
    cases working
  sweepReads m base bytes h := m.sweepReadDone_sweepLaws base bytes h
  portBurst m p len data h :=
    h.of_control _ (m.portBurstDone_control p len data) (Part.sweep_of_beyondPorts (m.portBurstDone_beyondPorts p len data))
  written m len h := by
    unfold Part.writerDone
    split
    · exact h
    · exact h.same _ id rfl rfl
  portFails m p _ h :=
    h.of_control _ (m.portBusError_control p) (Part.sweep_of_beyondPorts (m.portBusError_beyondPorts p))
  faults m code addr _ _ := Part.sweepLaws_of_clear _ rfl fun working => by cases working
  port m m' p _ event h := h.of_control m' event.control (Part.sweep_of_beyondPorts event.beyondPorts)
  piece m m' base working does h := does.sweepLaws working h
  quietPiece m m' base does h := by
    cases does with
    | clears p rest =>
      unfold Part.clearEntry
      dsimp only
      split <;> exact h.same _ id rfl rfl
    | adopts k => exact m.adoptEntry_sweepLaws base k h

/-- Settles O58: the fault code and a LOADING change only with the engine state; sweep-pending is set only while a sweep
is in progress and cleared at its end; ABSENT is entered only by the silence count that reaches the limit. -/
theorem faultAndPresenceLaws : Obligations.FaultAndPresenceLaws :=
  ⟨fun s t holds h => Part.faultCodeAgrees_law.step s t h holds,
    fun s t pending presence h => Part.sweepLaws_law.step s t h ⟨pending, presence⟩⟩

end Sys2Proof.Machine

/-! PROOF. Granted claims of one table never conflict (R53, R54). -/

namespace Sys2Proof.Machine

/-! ### The grant rule on a list -/

theorem conflict_comm (bits : Bool) (a b : Claim) : conflict bits a b = conflict bits b a := by
  have meet (a1 a2 b1 b2 : Nat) : rangesMeet a1 a2 b1 b2 = rangesMeet b1 b2 a1 a2 := Bool.and_comm _ _
  have overlap : claimsOverlap bits a b = claimsOverlap bits b a := by
    unfold claimsOverlap
    split <;> exact meet _ _ _ _
  rw [conflict, conflict, overlap, Bool.or_comm (a.mode == .hold), Bool.or_comm (a.mode == .exclusive)]

/-- Two claims of a list agree: when both are granted they do not conflict. -/
def claimsAgree (bits : Bool) (a b : Claim) : Prop :=
  a.granted = true → b.granted = true → conflict bits a b = false

/-- A claim that the grant rule lets be granted agrees, granted, with the claims before and after it. -/
theorem claimsAgree_of_grantable (bits : Bool) (before after : List Claim) (c : Claim)
    (grants : grantable bits before c after = true) :
    (∀ d ∈ before, claimsAgree bits d { c with granted := true }) ∧
    ∀ d ∈ after, claimsAgree bits { c with granted := true } d := by
  simp only [grantable, Bool.and_eq_true, List.all_eq_true, Bool.or_eq_true, Bool.not_eq_true'] at grants
  obtain ⟨ahead, behind⟩ := grants
  refine ⟨fun d mem _ _ => ?_, fun d mem _ granted => ?_⟩
  · rw [conflict_comm]
    exact ahead d mem
  · exact (behind d mem).resolve_left (by simp [granted])

/-- The pass of R54 keeps the claims of a list in agreement. -/
theorem grantPass_agrees (bits : Bool) (rest : List Claim) :
    ∀ done, (done ++ rest).Pairwise (claimsAgree bits) → (grantPass bits done rest).Pairwise (claimsAgree bits) := by
  induction rest with
  | nil =>
    intro done agree
    simpa [grantPass] using agree
  | cons c after ih =>
    intro done agree
    rw [grantPass]
    split
    · next grants =>
      refine ih _ ?_
      rw [List.append_assoc, List.singleton_append]
      obtain ⟨agreeDone, agreeRest, across⟩ := List.pairwise_append.1 agree
      obtain ⟨behind, agreeAfter⟩ := List.pairwise_cons.1 agreeRest
      have one : (∀ d ∈ done, claimsAgree bits d { c with granted := true }) ∧
          ∀ d ∈ after, claimsAgree bits { c with granted := true } d := by
        cases granted : c.granted with
        | true =>
          have same : ({ c with granted := true } : Claim) = c := by rw [← granted]
          rw [same]
          exact ⟨fun d mem => across d mem c (List.mem_cons_self ..), behind⟩
        | false => exact claimsAgree_of_grantable bits done after c (by simpa [granted] using grants)
      refine List.pairwise_append.2 ⟨agreeDone, List.pairwise_cons.2 ⟨one.2, agreeAfter⟩, fun d mem e mem' => ?_⟩
      obtain rfl | mem' := List.mem_cons.1 mem'
      · exact one.1 d mem
      · exact across d mem e (List.mem_cons_of_mem _ mem')
    · exact ih _ (by simpa using agree)

theorem afterLeave_agrees (bits : Bool) (l : List Claim) (who : Claimant) (agree : l.Pairwise (claimsAgree bits)) :
    (afterLeave bits l who).Pairwise (claimsAgree bits) :=
  grantPass_agrees bits _ [] (agree.filter _)

/-- A claim that arrives is granted only when it agrees with the whole list. -/
theorem arrival_agrees (bits : Bool) (l : List Claim) (c : Claim) (agree : l.Pairwise (claimsAgree bits))
    (fits : c.granted = true → grantable bits l c [] = true) : (l ++ [c]).Pairwise (claimsAgree bits) := by
  refine List.pairwise_append.2 ⟨agree, List.pairwise_singleton _ _, fun d mem e isNew => ?_⟩
  obtain rfl := List.mem_singleton.1 isNew
  intro granted granted'
  have same : ({ e with granted := true } : Claim) = e := by rw [← granted']
  exact same ▸ (claimsAgree_of_grantable bits l [] e (fits granted')).1 d mem granted rfl

/-! ### Claim lists of the part -/

theorem Part.grantsAgree.same {m : Part} (h : m.grantsAgree) (m' : Part) (setup : m'.setup = m.setup)
    (claims : m'.claims = m.claims) : m'.grantsAgree := by
  intro t
  rw [Part.claimList, Part.tableEntry, setup, claims]
  exact h t

theorem Part.grantsAgree.of_control {m : Part} (h : m.grantsAgree) (m' : Part) (control : m'.control = m.control)
    (claims : m'.claims = m.claims) : m'.grantsAgree :=
  h.same m' (Part.setup_of_control _ _ control) claims

/-- Empty lists hold no conflict. -/
theorem Part.grantsAgree_of_empty (m : Part) (empty : ∀ t, m.claimList t = []) : m.grantsAgree := by
  intro t
  rw [empty t]
  exact List.Pairwise.nil

theorem Part.quiet.grantsAgree {m : Part} (h : m.quiet) (idle : m.engine.working = false) : m.grantsAgree :=
  m.grantsAgree_of_empty (h idle).2

theorem Part.setClaimList_grantsAgree (m : Part) (t : TableNo) (l : List Claim)
    (agree : l.Pairwise (claimsAgree (m.tableEntry t).isBits)) (h : m.grantsAgree) :
    (m.setClaimList t l).grantsAgree := by
  intro u
  by_cases here : u = t
  · subst here
    rw [Part.claimList_setClaimList]
    exact agree
  · rw [Part.claimList_setClaimList_of_ne m t u l (Ne.symm here)]
    exact h u

theorem Part.tellGranted_claims (m : Part) (t : TableNo) (who : Claimant) : (m.tellGranted t who).claims = m.claims := by
  cases who with
  | port p => exact Part.claims_of_beyondPorts (m.claimGranted_beyondPorts p)
  | hold => rfl

theorem Part.claimArrives_grantsAgree (m : Part) (t : TableNo) (c : Claim) (h : m.grantsAgree) :
    (m.claimArrives t c).grantsAgree := by
  unfold Part.claimArrives
  split
  · next grants =>
    have listed := m.setClaimList_grantsAgree t _
      (arrival_agrees _ _ { c with granted := true } (h t) fun _ => grants) h
    exact listed.of_control _ (Part.tellGranted_control _ t _) (Part.tellGranted_claims _ t _)
  · exact m.setClaimList_grantsAgree t _ (arrival_agrees _ _ _ (h t) fun granted => by cases granted) h

theorem Part.claimLeaves_grantsAgree (m : Part) (t : TableNo) (who : Claimant) (h : m.grantsAgree) :
    (m.claimLeaves t who).grantsAgree := by
  let k := m.setClaimList t (afterLeave (m.tableEntry t).isBits (m.claimList t) who)
  have left : k.grantsAgree := m.setClaimList_grantsAgree t _ (afterLeave_agrees _ _ _ (h t)) h
  obtain ⟨-, -, -, rest⟩ :=
    Part.tellAllGranted_spec t (grantedByLeave (m.tableEntry t).isBits (m.claimList t) who) k
  rw [← Part.claimLeaves] at rest
  refine left.same _ ?_ ?_ <;> rw [rest]

theorem Part.portLeaves_grantsAgree (m : Part) (base : Word) (p : PortNo) (h : m.grantsAgree) :
    (m.portLeaves base p).grantsAgree := by
  unfold Part.portLeaves
  split
  · exact h
  · next t _ =>
    have left := m.claimLeaves_grantsAgree t (.port p) h
    dsimp only
    split
    · exact left.same _ rfl rfl
    · exact left

theorem Part.recordStore_claims (m : Part) (base : Word) (p : PortNo) : (m.recordStore base p).claims = m.claims := by
  unfold Part.recordStore
  dsimp only
  split <;> rfl

theorem Part.storeApplied_claims (m : Part) (base : Word) (p : PortNo) : (m.storeApplied base p).claims = m.claims := by
  unfold Part.storeApplied
  rw [Part.claims_of_beyondPorts (Part.reply_beyondPorts _ p _), ← m.recordStore_claims base p]
  (repeat' split) <;> rfl

theorem Part.takeHoldPost_grantsAgree (m : Part) (base : Word) (t : TableNo) (wanted : Byte) (post : Half)
    (h : m.grantsAgree) : (m.takeHoldPost base t wanted post).grantsAgree := by
  have written (k : Part) (x : TableRecord) (agree : k.grantsAgree) : (k.setTable t x).grantsAgree :=
    agree.same _ rfl rfl
  have queued (k : Part) (agree : k.grantsAgree) : (k.queueTableRecord base t).grantsAgree := agree.same _ rfl rfl
  unfold Part.takeHoldPost
  refine queued _ ?_
  split <;> split
  · exact written _ _ h
  · exact Part.claimArrives_grantsAgree _ t _ (written _ _ (written _ _ h))
  · exact Part.claimLeaves_grantsAgree _ t .hold (written _ _ (written _ _ h))
  · exact written _ _ (written _ _ h)

theorem Part.doInput_grantsAgree (m : Part) (base : Word) (i : ClaimInput) (h : m.grantsAgree) :
    (m.doInput base i).grantsAgree := by
  cases i with
  | arrive p t mode first count => exact m.claimArrives_grantsAgree t _ h
  | leave p => exact m.portLeaves_grantsAgree base p h
  | expire p =>
    simp only [Part.doInput, Part.claimExpires]
    split
    · exact (m.portLeaves_grantsAgree base p h).of_control _ (Part.claimTimedOut_control _ p)
        (Part.claims_of_beyondPorts (Part.claimTimedOut_beyondPorts _ p))
    · exact h
  | stored p => exact h.of_control _ (m.doInput_control base (.stored p)) (m.storeApplied_claims base p)
  | holdPost t wanted post =>
    simp only [Part.doInput]
    split
    · exact h
    · exact m.takeHoldPost_grantsAgree base t wanted post h

theorem Part.releaseHold_grantsAgree (m : Part) (base : Word) (t : TableNo) (h : m.grantsAgree) :
    (m.releaseHold base t).grantsAgree := by
  have freed : (m.setTable t { m.table t with holdState := .free }).grantsAgree := h.same _ rfl rfl
  exact (Part.claimLeaves_grantsAgree _ t .hold freed).same _ rfl rfl

/-! ### The law -/

theorem Part.claims_of_beyondSlots {m m' : Part} (same : m'.beyondSlots = m.beyondSlots) : m'.claims = m.claims :=
  congrArg BeyondSlots.claims same

theorem Part.Piece.grantsAgree {m m' : Part} {base : Word} (does : m.Piece base m') (h : m.grantsAgree) :
    m'.grantsAgree := by
  cases does with
  | input i => exact m.doInput_grantsAgree base i h
  | task t => exact h.of_control _ (m.doTask_control base t) (Part.claims_of_beyondSlots (m.doTask_beyondSlots base t))
  | job k => exact h.of_control _ (m.doJob_control base k) (Part.claims_of_beyondSlots (m.doJob_beyondSlots base k))
  | resumes p => exact h.of_control _ (m.resumeRun_control p) (Part.claims_of_beyondPorts (m.resumeRun_beyondPorts p))
  | head p n rest =>
    have taken : (m.setQueue p rest).grantsAgree := h.same _ rfl rfl
    exact taken.of_control _ ((m.setQueue p rest).beginRun_control p n)
      (Part.claims_of_beyondPorts ((m.setQueue p rest).beginRun_beyondPorts p n))
  | post n => exact h.of_control _ (m.handPost_control base n) (m.handPost_goesOn base n).claims
  | arms n o =>
    exact h.of_control _ (m.armPost_control _ o)
      (Part.claims_of_beyondSlots (m' := m.armPost _ o) (m.armPost_beyondSlots _ o))
  | slotDone n => exact h.of_control _ (m.afterSlot_control base n) (m.afterSlot_goesOn base n).claims
  | holdDone t => exact h.of_control _ (m.afterHold_control base t) (m.afterHold_same base t).2.1
  | sweep m' entry =>
    exact h.of_control _ (m.sweepEntry_control m' base entry) (m.sweepEntry_same m' base entry).2.1
  | stop m' entry =>
    obtain ⟨t, stage, rfl⟩ | ⟨n, stage, rfl⟩ | rfl := m.stopEntry_cases m' base entry
    · exact (m.releaseHold_grantsAgree base t h).same _ rfl rfl
    · exact h.of_control (m.complete base n _) (m.complete_control base n _)
        (Part.claims_of_beyondSlots (m.complete_beyondSlots base n _))
    · exact (Part.enterStopped_quiet _).grantsAgree rfl

theorem Part.enterRunning_claims (m : Part) (base : Word) : (m.enterRunning base).claims = Vector.replicate 8 [] := by
  unfold Part.enterRunning
  dsimp only
  split <;> rfl

theorem Part.adoptEntry_grantsAgree (m : Part) (base : Word) (k : Nat) (h : m.grantsAgree) :
    (m.adoptEntry base k).grantsAgree := by
  unfold Part.adoptEntry
  dsimp only
  split
  · exact h.same _ rfl rfl
  split
  · exact h.same _ rfl rfl
  split
  · exact h.same _ rfl rfl
  · refine Part.grantsAgree_of_empty _ fun t => ?_
    rw [Part.claimList, Part.enterRunning_claims]
    simp [Vector.get]

/-- The setup changes in LOADING alone, where a quiet part has no claim. -/
theorem Part.loaderReadDone_grantsAgree (m : Part) (base : Word) (bytes : List Byte) (loading : m.engine = .loading)
    (quiet : m.quiet) : (m.loaderReadDone base bytes).grantsAgree := by
  obtain ⟨-, -, claims, -⟩ := m.loaderReadDone_same base bytes
  refine Part.grantsAgree_of_empty _ fun t => ?_
  rw [Part.claimList, claims]
  exact (quiet (by rw [loading]; rfl)).2 t

/-- The part is quiet outside RUNNING and STOPPING, and its granted claims agree. -/
def Part.grantLaws (m : Part) : Prop := m.quiet ∧ m.grantsAgree

theorem Part.grantLaws_law : Part.Law Part.grantLaws where
  frame m m' same h := by
    refine ⟨Part.quiet_law.frame m m' same h.1, ?_⟩
    obtain ⟨-, -, setup, -, -, claims, -, -, -⟩ := m.same_of_lawView m' same
    exact h.2.same m' setup claims
  reset := ⟨Part.reset_quiet, Part.reset_quiet.grantsAgree rfl⟩
  starts m base idle h := by
    refine ⟨Part.quiet_law.starts m base idle h.1, h.2.same _ ?_ (m.startLoading_same base).2.2.1⟩
    unfold Part.startLoading
    dsimp only
    split <;> rfl
  stopsLoading m loading h := by
    refine ⟨Part.quiet_law.stopsLoading m loading h.1, h.2.same _ ?_ m.stopInLoading_same.2.2.1⟩
    unfold Part.stopInLoading
    split <;> rfl
  stops m running h := ⟨Part.quiet_law.stops m running h.1, h.2.same _ rfl rfl⟩
  sweepStarts m base working h := ⟨Part.quiet_law.sweepStarts m base working h.1, h.2.same _ rfl rfl⟩
  sweepLate m v late busy h := ⟨Part.quiet_law.sweepLate m v late busy h.1, h.2.same _ rfl rfl⟩
  clears m h := ⟨Part.quiet_law.clears m h.1, h.2.same _ rfl rfl⟩
  loads m base bytes loading h :=
    ⟨Part.quiet_law.loads m base bytes loading h.1, m.loaderReadDone_grantsAgree base bytes loading h.1⟩
  sweepReads m base bytes h :=
    ⟨Part.quiet_law.sweepReads m base bytes h.1,
      h.2.of_control _ (m.sweepReadDone_control base bytes) (m.sweepReadDone_goesOn base bytes).2.1⟩
  portBurst m p len data h :=
    ⟨Part.quiet_law.portBurst m p len data h.1,
      h.2.of_control _ (m.portBurstDone_control p len data)
        (Part.claims_of_beyondPorts (m.portBurstDone_beyondPorts p len data))⟩
  written m len h := by
    refine ⟨Part.quiet_law.written m len h.1, ?_⟩
    unfold Part.writerDone
    split
    · exact h.2
    · exact h.2.same _ rfl rfl
  portFails m p outstanding h :=
    ⟨Part.quiet_law.portFails m p outstanding h.1,
      h.2.of_control _ (m.portBusError_control p) (Part.claims_of_beyondPorts (m.portBusError_beyondPorts p))⟩
  faults m code addr some h :=
    ⟨Part.quiet_law.faults m code addr some h.1, (m.enterFaulted_quiet code addr).grantsAgree rfl⟩
  port m m' p working event h :=
    ⟨Part.quiet_law.port m m' p working event h.1,
      h.2.of_control _ event.control (Part.claims_of_beyondPorts event.beyondPorts)⟩
  piece m m' base working does h := ⟨Part.quiet_law.piece m m' base working does h.1, does.grantsAgree h.2⟩
  quietPiece m m' base does h := by
    refine ⟨Part.quiet_law.quietPiece m m' base does h.1, ?_⟩
    cases does with
    | clears p rest =>
      unfold Part.clearEntry
      dsimp only
      split <;> exact h.2.same _ rfl rfl
    | adopts k => exact m.adoptEntry_grantsAgree base k h.2

/-- Settles O55: a claim is granted by the rule of R54 alone, which looks at every granted claim of its list; the setup,
on which a conflict depends, changes in LOADING alone, where the lists are empty. -/
theorem grantedClaimsNeverConflict : Obligations.GrantedClaimsNeverConflict :=
  fun s t quiet agree h => (Part.grantLaws_law.step s t h ⟨quiet, agree⟩).2

end Sys2Proof.Machine

/-! PROOF. While a port transmits, its receiver machine is held in HUNT with nothing collected (R72): every operation of a
port leaves the line as it is, or asserts DRVEN with the receiver in HUNT, or releases it. -/

namespace Sys2Proof.Machine

/-! ### One port -/

/-- The line of one port: while it transmits, its receiver machine is held in HUNT with nothing collected. -/
def Port.held (x : Port) : Prop :=
  x.tx ≠ none → x.receiver.state = .hunt ∧ x.receiver.buffer = [] ∧ x.silence = false

theorem Port.held_of_silent (x : Port) (silent : x.tx = none) : x.held := fun drives => absurd silent drives

theorem Port.startTx_held (x : Port) (t : Transmission) : (x.startTx t).held := fun _ => ⟨rfl, rfl, rfl⟩

theorem Port.leaveGrant_held (x : Port) (held : x.held) : x.leaveGrant.held := by
  unfold Port.leaveGrant
  split
  · split <;> exact held
  · exact held

theorem Port.endTx_held (x : Port) : x.endTx.held := x.endTx.held_of_silent rfl

/-! ### What each operation of a port keeps -/

section Keeps
variable {m : Part}

theorem Part.heldInHunt.of_ports (h : m.heldInHunt) (m' : Part) (ports : m'.ports = m.ports) : m'.heldInHunt := by
  intro p
  rw [Part.port, ports]
  exact h p

theorem Part.heldInHunt.setPort (h : m.heldInHunt) (p : PortNo) (x : Port) (held : x.held) :
    (m.setPort p x).heldInHunt := by
  intro q
  by_cases same : q = p
  · subst same
    rw [Part.port_setPort]
    exact held
  · rw [Part.port_setPort_of_ne m p q x (Ne.symm same)]
    exact h q

/-- An update of a port that leaves its line as it is, or keeps it held, keeps the law. -/
theorem Part.heldInHunt.onPort (h : m.heldInHunt) (p : PortNo) {f : Port → Port}
    (keeps : ∀ x, x.held → (f x).held := by exact fun _ held => held) : (m.onPort p f).heldInHunt :=
  h.setPort p _ (keeps _ (h p))

theorem Part.heldInHunt.tellSlotManager (h : m.heldInHunt) (k : JobKind) : (m.tellSlotManager k).heldInHunt := h

theorem Part.heldInHunt.tellClaimUnit (h : m.heldInHunt) (i : ClaimInput) : (m.tellClaimUnit i).heldInHunt := h

theorem Part.heldInHunt.startTx (h : m.heldInHunt) (p : PortNo) (t : Transmission) :
    (m.onPort p fun x => x.startTx t).heldInHunt := h.onPort p fun x _ => x.startTx_held t

variable (p : PortNo)

theorem Part.heldInHunt.fillRunFault (h : m.heldInHunt) (kind : FaultKind) (reason : Byte) :
    (m.fillRunFault p kind reason).heldInHunt := by
  unfold Part.fillRunFault
  split
  · exact h
  · exact h.onPort p

theorem Part.heldInHunt.endRun (h : m.heldInHunt) (outcome reason : Byte) : (m.endRun p outcome reason).heldInHunt := by
  unfold Part.endRun
  split
  · exact Part.heldInHunt.tellSlotManager (h.onPort p) _
  · exact h

theorem Part.heldInHunt.sendBid (h : m.heldInHunt) (tag : Byte) : (m.sendBid p tag).heldInHunt := by
  unfold Part.sendBid
  dsimp only
  split
  · exact h.onPort p
  · exact Part.heldInHunt.onPort (h.onPort p) p fun x _ => x.startTx_held .bid

theorem Part.heldInHunt.enterSending (h : m.heldInHunt) : (m.enterSending p).heldInHunt := by
  have sending : (m.onPort p fun x => { x with activity := .sending }).heldInHunt := h.onPort p
  unfold Part.enterSending
  dsimp only
  split
  · exact sending
  · exact sending.startTx p .request

theorem Part.heldInHunt.startWaiting (h : m.heldInHunt) : (m.startWaiting p).heldInHunt := by
  unfold Part.startWaiting
  split
  · exact h.startTx p .request
  split
  · exact h.onPort p fun x _ => x.startTx_held .bid
  · exact h

theorem Part.heldInHunt.holdoffPasses (h : m.heldInHunt) : (m.holdoffPasses p).heldInHunt :=
  Part.heldInHunt.startWaiting p (h.onPort p)

theorem Part.heldInHunt.startAttempt (h : m.heldInHunt) : (m.startAttempt p).heldInHunt := by
  unfold Part.startAttempt
  dsimp only
  split
  · have begun : (m.onPort p fun x =>
        { x with run := { x.run with started := x.run.started + 1, lastFailure := none }, memStep := .none }).heldInHunt :=
      h.onPort p
    split
    · exact Part.heldInHunt.sendBid p (begun.onPort p) _
    all_goals exact begun.enterSending p
  · exact h

theorem Part.heldInHunt.attemptFailed (h : m.heldInHunt) (f : RunFailure) : (m.attemptFailed p f).heldInHunt := by
  have failed : (m.onPort p fun x => { x with run := { x.run with lastFailure := some f } }).heldInHunt :=
    h.onPort p
  unfold Part.attemptFailed
  dsimp only
  split
  · split
    · exact failed.startAttempt p
    · exact failed.onPort p
  · exact failed.endRun p _ _

theorem Part.heldInHunt.attemptGarbled (h : m.heldInHunt) : (m.attemptGarbled p).heldInHunt :=
  (h.fillRunFault p _ _).attemptFailed p _

theorem Part.heldInHunt.formRequest (h : m.heldInHunt) (o : Order) (data : List Byte) :
    (m.formRequest p o data).heldInHunt := h.onPort p

theorem Part.heldInHunt.beginRun (h : m.heldInHunt) (n : SlotNo) : (m.beginRun p n).heldInHunt := by
  have active : (m.onSlot n fun x => { x with state := .active }).heldInHunt := h.of_ports _ rfl
  unfold Part.beginRun
  dsimp only
  split
  · exact Part.heldInHunt.tellClaimUnit (active.onPort p) _
  · exact Part.heldInHunt.startAttempt p (Part.heldInHunt.formRequest p (active.onPort p) _ _)

theorem Part.heldInHunt.captured (h : m.heldInHunt) (raw : List Byte) : (m.captured p raw).heldInHunt := by
  unfold Part.captured
  split
  · exact h
  · have released : (m.releaseClaim p).heldInHunt := h.of_ports _ rfl
    exact (released.formRequest p _ _).startAttempt p

theorem Part.heldInHunt.raise (h : m.heldInHunt) (t : Tally) : (m.raise p t).heldInHunt :=
  h.onPort p

theorem Part.heldInHunt.replyAccepted (h : m.heldInHunt) (o : Order) (body : List Byte) :
    (m.replyAccepted p o body).heldInHunt := by
  unfold Part.replyAccepted
  split
  · exact Part.heldInHunt.tellClaimUnit (h.onPort p) _
  · exact Part.heldInHunt.endRun p (h.onPort p) _ _

theorem Part.heldInHunt.refusalReceived (h : m.heldInHunt) (reason : Byte) :
    (m.refusalReceived p reason).heldInHunt := by
  have counted := (h.raise p .refusalsReceived).fillRunFault p .refusalReceived reason
  unfold Part.refusalReceived
  dsimp only
  split
  · exact counted.attemptFailed p _
  · exact counted.endRun p _ _

theorem Part.heldInHunt.answerInAwaiting (h : m.heldInHunt) (f : Frame) : (m.answerInAwaiting p f).heldInHunt := by
  unfold Part.answerInAwaiting
  dsimp only
  split
  · exact h.raise p _
  split
  · split
    · exact h.replyAccepted p _ _
    · exact h.attemptGarbled p
  split
  · split
    · exact h.refusalReceived p _
    · exact h.attemptGarbled p
  · exact h.raise p _

theorem Part.heldInHunt.requestSent (h : m.heldInHunt) : (m.requestSent p).heldInHunt := by
  have ended : (m.onPort p Port.endTx).heldInHunt := h.onPort p fun x _ => x.endTx_held
  unfold Part.requestSent
  dsimp only
  split
  · exact h
  split
  · split
    · exact ended.endRun p _ _
    · exact ended.onPort p
  · exact ended.onPort p

theorem Part.heldInHunt.startGrant (h : m.heldInHunt) : (m.onPort p Port.startGrant).heldInHunt :=
  h.onPort p fun x _ => x.startTx_held .grant

theorem Part.heldInHunt.grant (h : m.heldInHunt) (tag : Byte) : (m.grant p tag).heldInHunt := by
  unfold Part.grant
  dsimp only
  split
  · exact Part.heldInHunt.startGrant p (h.onPort p)
  · exact h.onPort p

theorem Part.heldInHunt.yieldLine (h : m.heldInHunt) (tag : Byte) : (m.yieldLine p tag).heldInHunt :=
  Part.heldInHunt.grant p ((h.raise p _).onPort p) tag

theorem Part.heldInHunt.grantAccepted (h : m.heldInHunt) : (m.grantAccepted p).heldInHunt :=
  Part.heldInHunt.enterSending p (h.onPort p)

theorem Part.heldInHunt.resumeRun (h : m.heldInHunt) : (m.resumeRun p).heldInHunt :=
  Part.heldInHunt.sendBid p (h.onPort p) _

theorem Part.heldInHunt.bidUnanswered (h : m.heldInHunt) : (m.bidUnanswered p).heldInHunt := by
  unfold Part.bidUnanswered
  dsimp only
  split
  · exact Part.heldInHunt.sendBid p (h.onPort p) _
  · exact Part.heldInHunt.attemptFailed p (h.onPort p) _

/-! ### Service -/

theorem Part.heldInHunt.startAnswer (h : m.heldInHunt) : (m.onPort p Port.startAnswer).heldInHunt :=
  h.onPort p fun x _ => x.startTx_held .answer

theorem Part.heldInHunt.enterTurnaround (h : m.heldInHunt) : (m.enterTurnaround p).heldInHunt := by
  unfold Part.enterTurnaround
  dsimp only
  split
  · exact h.onPort p
  · exact Part.heldInHunt.startAnswer p (h.onPort p)

theorem Part.heldInHunt.turnaroundEnds (h : m.heldInHunt) : (m.turnaroundEnds p).heldInHunt := by
  unfold Part.turnaroundEnds
  dsimp only
  split
  · exact Part.heldInHunt.startAnswer p (h.onPort p)
  · exact h.onPort p

theorem Part.heldInHunt.endBroadcast (h : m.heldInHunt) : (m.endBroadcast p).heldInHunt :=
  h.onPort p

theorem Part.heldInHunt.reply (h : m.heldInHunt) (body : List Byte) : (m.reply p body).heldInHunt := by
  unfold Part.reply
  dsimp only
  split
  · exact h.endBroadcast p
  · exact Part.heldInHunt.enterTurnaround p (h.onPort p)

theorem Part.heldInHunt.refuse (h : m.heldInHunt) (reason : Byte) : (m.refuse p reason).heldInHunt := by
  unfold Part.refuse
  dsimp only
  split
  · exact (h.raise p _).endBroadcast p
  · exact Part.heldInHunt.enterTurnaround p ((h.raise p _).onPort p)

theorem Part.heldInHunt.fillServiceFault (h : m.heldInHunt) (kind : FaultKind) (reason : Byte) :
    (m.fillServiceFault p kind reason).heldInHunt := h.onPort p

theorem Part.heldInHunt.serveValidated (h : m.heldInHunt) (f : Frame) (sinh : Bool) :
    (m.serveValidated p f sinh).heldInHunt := by
  unfold Part.serveValidated
  split
  · exact h.of_ports _ rfl
  split
  · exact h.reply p _
  · exact Part.heldInHunt.reply p (h.onPort p) _

theorem Part.heldInHunt.acceptRequest (h : m.heldInHunt) (f : Frame) (sinh : Bool) :
    (m.acceptRequest p f sinh).heldInHunt := by
  have begun : (m.onPort p fun x => x.beginService f (m.portSetup p).turnaround).heldInHunt :=
    h.onPort p
  unfold Part.acceptRequest
  dsimp only
  split
  · exact Part.heldInHunt.enterTurnaround p ((begun.raise p _).onPort p)
  · have copied := begun.onPort p (f := fun x => x.copyBody f)
    split
    · exact (copied.fillServiceFault p _ _).refuse p _
    · exact copied.serveValidated p f sinh

/-! ### Memory accesses of a port -/

theorem Part.heldInHunt.claimGranted (h : m.heldInHunt) : (m.claimGranted p).heldInHunt := by
  obtain ⟨a, s, starts⟩ := m.claimGranted_starts p
  rw [starts]
  exact h.setPort p _ (h p)

theorem Part.heldInHunt.lastEdgeOrWrite (h : m.heldInHunt) : (m.lastEdgeOrWrite p).heldInHunt := by
  unfold Part.lastEdgeOrWrite
  dsimp only
  split <;> exact h.onPort p

theorem Part.heldInHunt.fetchDone (h : m.heldInHunt) (raw : List Byte) : (m.fetchDone p raw).heldInHunt :=
  Part.heldInHunt.reply p (h.of_ports (m.releaseClaim p) rfl) _

theorem Part.heldInHunt.portAccessDone (h : m.heldInHunt) (raw : List Byte) :
    (m.portAccessDone p raw).heldInHunt := by
  unfold Part.portAccessDone
  split
  case h_1 => exact h
  case h_2 =>
    split
    · exact h.fetchDone p raw
    · exact h.captured p raw
  case h_3 => exact Part.heldInHunt.lastEdgeOrWrite p (h.onPort p)
  case h_4 => exact Part.heldInHunt.onPort (h.onPort p (f := fun x => { x with edgeLast := byteAt raw 0 })) p
  case h_5 =>
    split
    · exact Part.heldInHunt.tellClaimUnit (h.onPort p) _
    · exact Part.heldInHunt.endRun p (h.of_ports (m.releaseClaim p) rfl) _ _
  case h_6 => exact h.onPort p
  case h_7 => exact Part.heldInHunt.tellClaimUnit (h.onPort p) _

theorem Part.heldInHunt.portBusError (h : m.heldInHunt) : (m.portBusError p).heldInHunt := by
  have released : ((m.onPort p fun x => { x with access := none, memStep := .none }).releaseClaim p).heldInHunt :=
    Part.heldInHunt.tellClaimUnit (h.onPort p) _
  unfold Part.portBusError
  dsimp only
  split
  · exact (released.fillServiceFault p _ _).refuse p _
  · exact (released.fillRunFault p _ _).endRun p _ _

theorem Part.heldInHunt.claimTimedOut (h : m.heldInHunt) : (m.claimTimedOut p).heldInHunt := by
  unfold Part.claimTimedOut
  split
  · exact (h.fillServiceFault p _ _).refuse p _
  · exact (h.fillRunFault p _ _).endRun p _ _

/-! ### Reports of the receiver machine -/

theorem Part.heldInHunt.requestAtReady (h : m.heldInHunt) (f : Frame) (sinh : Bool) :
    (m.requestAtReady p f sinh).heldInHunt := by
  unfold Part.requestAtReady
  split
  · exact h.raise p _
  · exact h.acceptRequest p f sinh

theorem Part.heldInHunt.goodAtMaster (h : m.heldInHunt) (f : Frame) : (m.goodAtMaster p f).heldInHunt := by
  unfold Part.goodAtMaster
  split
  · exact h.answerInAwaiting p f
  · exact h.raise p _

theorem Part.heldInHunt.goodAtResponder (h : m.heldInHunt) (f : Frame) (sinh : Bool) :
    (m.goodAtResponder p f sinh).heldInHunt := by
  unfold Part.goodAtResponder
  split
  · split
    · exact h.raise p _
    · exact h.requestAtReady p f sinh
  · exact h.raise p _

theorem Part.heldInHunt.partnerBid (h : m.heldInHunt) (tag : Byte) : (m.partnerBid p tag).heldInHunt := by
  unfold Part.partnerBid
  split
  · exact h.grant p tag
  · exact h.grant p tag
  · split
    · exact h.yieldLine p tag
    · exact h
  · exact h

theorem Part.heldInHunt.requestAtPeer (h : m.heldInHunt) (f : Frame) (sinh : Bool) :
    (m.requestAtPeer p f sinh).heldInHunt := by
  unfold Part.requestAtPeer
  split
  · exact h.raise p _
  split
  · exact h.requestAtReady p f sinh
  · exact h.raise p _

theorem Part.heldInHunt.goodAtPeer (h : m.heldInHunt) (f : Frame) (sinh : Bool) :
    (m.goodAtPeer p f sinh).heldInHunt := by
  unfold Part.goodAtPeer
  split
  · split
    · exact h
    · exact h.partnerBid p _
  split
  · exact h.grantAccepted p
  split
  · exact h.requestAtPeer p f sinh
  split
  · exact h.answerInAwaiting p f
  · exact h.raise p _

theorem Part.heldInHunt.takeReport (h : m.heldInHunt) (r : Report) (sinh : Bool) :
    (m.takeReport p r sinh).heldInHunt := by
  have unreadable (t : Tally) : (m.unreadable p t).heldInHunt := by
    unfold Part.unreadable
    dsimp only
    split
    · exact (h.raise p t).attemptGarbled p
    · exact h.raise p t
  cases r with
  | good f =>
    have counted := (h.raise p .framesAccepted).onPort p 
      (f := fun x => { x with holdoff := (m.portSetup p).turnaround != 0 })
    simp only [Part.takeReport, Part.goodReport]
    split
    · exact counted
    · exact counted.goodAtMaster p f
    · exact counted.goodAtResponder p f sinh
    · exact counted.goodAtPeer p f sinh
  | badCheck | spoiled | abandoned => exact unreadable _

/-- A held receiver machine takes no character; at any other DRVEN is deasserted. -/
theorem Part.heldInHunt.character (h : m.heldInHunt) (levels : Levels) (edge sinh : Bool) :
    (m.character p levels edge sinh).heldInHunt := by
  unfold Part.character
  dsimp only
  split
  · exact h
  split
  · exact h.setPort p _ (h p)
  · next released =>
    have silent : (m.port p).tx = none := by simpa [Port.drven] using released
    have taken (r : Receiver) : (m.setPort p { (m.port p).arrived with receiver := r }).heldInHunt :=
      h.setPort p _ (Port.held_of_silent _ silent)
    split
    · exact taken _
    · exact (taken _).takeReport p _ sinh

theorem Part.PortEvent.heldInHunt {m' : Part} (event : m.PortEvent p m') (h : m.heldInHunt) : m'.heldInHunt := by
  have lapses : (m.timerLapses p).heldInHunt := h.onPort p
  cases event with
  | character levels edge sinh => exact h.character p levels edge sinh
  | gapPassed =>
    unfold Part.gapPassed
    dsimp only
    split
    · next collecting =>
      obtain ⟨-, -, released⟩ := collecting
      have silent : (m.port p).tx = none := by simpa [Port.drven] using released
      have hunting := h.setPort p { m.port p with receiver := Receiver.hunting } (Port.held_of_silent _ silent)
      exact hunting.takeReport p _ _
    · exact h
  | gapComplete =>
    unfold Part.gapComplete
    dsimp only
    split
    · exact h.setPort p _ fun drives => ⟨rfl, rfl, (h p drives).2.2⟩
    · exact h
  | startEdge =>
    unfold Part.startEdge
    dsimp only
    split
    · exact h
    · exact h.setPort p _ fun drives => ⟨(h p drives).1, (h p drives).2.1, rfl⟩
  | requestEnds =>
    unfold Part.requestEnds
    split
    · exact h.requestSent p
    · exact h
  | bidEnds =>
    unfold Part.bidEnds
    split
    · exact h.onPort p fun x _ => x.endTx_held
    · exact h
  | grantEnds =>
    unfold Part.grantEnds
    split
    · split <;> exact h.onPort p fun x _ => x.endTx_held
    · exact h
  | answerEnds =>
    unfold Part.answerEnds
    split
    · exact h.onPort p fun x _ => x.endTx_held
    · exact h
  | holdoffPasses => exact h.holdoffPasses p
  | grantHoldEnds =>
    unfold Part.grantHoldEnds
    split
    · exact h.startGrant p
    · exact h
  | turnaroundEnds => exact h.turnaroundEnds p
  | replyTimedOut =>
    unfold Part.replyTimedOut
    split
    · exact ((lapses.raise p _).fillRunFault p _ _).attemptFailed p _
    · exact h
  | retryWaitEnds =>
    unfold Part.retryWaitEnds Part.endByLastFailure
    split
    · split
      · exact h.startAttempt p
      split
      · exact h
      · exact h.endRun p _ _
    · exact h
  | settlingEnds =>
    unfold Part.settlingEnds
    split
    · exact h.endRun p _ _
    · exact h
  | bidTimerExpires =>
    unfold Part.bidTimerExpires
    split
    · exact lapses.bidUnanswered p
    · exact h
  | grantTimerExpires =>
    unfold Part.grantTimerExpires
    split
    · exact lapses.onPort p
    · exact h

/-! ### The claim unit and the slot manager -/

theorem Part.heldInHunt.tellGranted (h : m.heldInHunt) (t : TableNo) (who : Claimant) :
    (m.tellGranted t who).heldInHunt := by
  cases who with
  | port q => exact h.claimGranted q
  | hold => exact h.of_ports _ rfl

theorem Part.heldInHunt.tellAllGranted (h : m.heldInHunt) (t : TableNo) (l : List Claimant) :
    (m.tellAllGranted t l).heldInHunt := by
  induction l generalizing m with
  | nil => exact h
  | cons who l ih => exact ih (h.tellGranted t who)

theorem Part.heldInHunt.setTable (h : m.heldInHunt) (t : TableNo) (x : TableRecord) : (m.setTable t x).heldInHunt := h

theorem Part.heldInHunt.setClaimList (h : m.heldInHunt) (t : TableNo) (l : List Claim) :
    (m.setClaimList t l).heldInHunt := h

theorem Part.heldInHunt.claimArrives (h : m.heldInHunt) (t : TableNo) (c : Claim) :
    (m.claimArrives t c).heldInHunt := by
  unfold Part.claimArrives
  split
  · exact (h.setClaimList t _).tellGranted t _
  · exact h.setClaimList t _

theorem Part.heldInHunt.claimLeaves (h : m.heldInHunt) (t : TableNo) (who : Claimant) :
    (m.claimLeaves t who).heldInHunt := (h.setClaimList t _).tellAllGranted t _

theorem Part.heldInHunt.portLeaves (h : m.heldInHunt) (base : Word) : (m.portLeaves base p).heldInHunt := by
  unfold Part.portLeaves
  dsimp only
  split
  · exact h
  · next t _ =>
    split
    · exact (h.claimLeaves t _).of_ports _ rfl
    · exact h.claimLeaves t _

theorem Part.recordStore_ports (m : Part) (base : Word) (p : PortNo) : (m.recordStore base p).ports = m.ports := by
  unfold Part.recordStore
  dsimp only
  split <;> rfl

theorem Part.heldInHunt.storeApplied (h : m.heldInHunt) (base : Word) : (m.storeApplied base p).heldInHunt := by
  refine Part.heldInHunt.reply p (h.of_ports _ ?_) _
  rw [← m.recordStore_ports base p]
  (repeat' split) <;> rfl

theorem Part.heldInHunt.takeHoldPost (h : m.heldInHunt) (base : Word) (t : TableNo) (wanted : Byte) (post : Half) :
    (m.takeHoldPost base t wanted post).heldInHunt := by
  unfold Part.takeHoldPost
  dsimp only
  refine Part.heldInHunt.of_ports ?_ _ rfl
  have seen := h.setTable t { m.table t with seenHold := post }
  split <;> split
  · exact seen
  · exact (seen.setTable t _).claimArrives t _
  · exact (seen.setTable t _).claimLeaves t _
  · exact seen

theorem Part.heldInHunt.doInput (h : m.heldInHunt) (base : Word) (i : ClaimInput) : (m.doInput base i).heldInHunt := by
  cases i with
  | arrive q t mode first count => exact h.claimArrives t _
  | leave q => exact h.portLeaves q base
  | expire q =>
    simp only [Part.doInput, Part.claimExpires]
    split
    · exact (h.portLeaves q base).claimTimedOut q
    · exact h
  | stored q => exact h.storeApplied q base
  | holdPost t wanted post =>
    simp only [Part.doInput]
    split
    · exact h
    · exact h.takeHoldPost base t wanted post

theorem Part.heldInHunt.doJob (h : m.heldInHunt) (base : Word) (k : JobKind) : (m.doJob base k).heldInHunt := by
  cases k with
  | runEnding q =>
    obtain same | same := (m.takeEnding_same base q).2
    · exact h.of_ports _ same
    · exact Part.heldInHunt.of_ports (h.onPort q) _ same
  | postWord n | takeWord n => exact h.of_ports _ rfl
  | rejection n notify => cases notify <;> exact h.of_ports _ rfl
  | expiry n => exact h.of_ports _ (Part.same_of_beyondPosts (m.takeExpiry_beyondPosts n)).2.1

end Keeps

/-! ### The law -/

/-- No port of the part drives its line. -/
theorem Part.heldInHunt_of_silent (m : Part) (silent : ∀ p, (m.port p).tx = none) : m.heldInHunt :=
  fun p => Port.held_of_silent _ (silent p)

theorem Part.enterStopped_heldInHunt (m : Part) : m.enterStopped.heldInHunt :=
  Part.heldInHunt_of_silent _ fun p => congrArg Port.tx (m.port_onPorts p Port.offline)

theorem Part.Piece.heldInHunt {m m' : Part} {base : Word} (does : m.Piece base m') (h : m.heldInHunt) :
    m'.heldInHunt := by
  cases does with
  | input i => exact h.doInput base i
  | task t => exact h.of_ports _ (m.doTask_same base t).2
  | job k => exact h.doJob base k
  | resumes p => exact h.resumeRun p
  | head p n rest => exact Part.heldInHunt.beginRun p (h.of_ports (m.setQueue p rest) rfl) n
  | post n => exact h.of_ports _ (m.handPost_goesOn base n).ports
  | arms n o => exact h.of_ports _ (Part.same_of_beyondPosts (m' := m.armPost _ o) (m.armPost_beyondPosts _ o)).2.1
  | slotDone n => exact h.of_ports _ (m.afterSlot_goesOn base n).ports
  | holdDone t => exact h.of_ports _ (m.afterHold_same base t).1
  | sweep m' entry => exact h.of_ports _ (m.sweepEntry_same m' base entry).1
  | stop m' entry =>
    obtain ⟨t, stage, rfl⟩ | ⟨n, stage, rfl⟩ | rfl := m.stopEntry_cases m' base entry
    · have freed : (m.setTable t { m.table t with holdState := .free }).heldInHunt := h.of_ports _ rfl
      exact (freed.claimLeaves t .hold).of_ports _ rfl
    · exact h.of_ports _ (m.complete_same base n _).2
    · exact Part.enterStopped_heldInHunt _

/-- The ports as the adoption sets them drive no line. -/
theorem adoptedPort_tx (s : PortSetup) : (adoptedPort s).tx = none := by
  unfold adoptedPort
  split <;> rfl

theorem Part.enterStopping_heldInHunt (m : Part) (h : m.heldInHunt) : m.enterStopping.heldInHunt := by
  intro p
  have port : m.enterStopping.port p = (m.port p).leaveGrant := m.port_onPorts p _
  rw [port]
  exact Port.leaveGrant_held _ (h p)

theorem Part.enterRunning_heldInHunt (m : Part) (base : Word) : (m.enterRunning base).heldInHunt := by
  have adopted (k : Part) (ports : k.ports = m.setup.ports.map adoptedPort) : k.heldInHunt :=
    k.heldInHunt_of_silent fun p => by simp [Part.port, ports, adoptedPort_tx, Vector.get]
  unfold Part.enterRunning
  dsimp only
  split
  · exact Part.enterStopping_heldInHunt _ (adopted _ rfl)
  · exact adopted _ rfl

theorem Part.heldInHunt.clearTallies {m : Part} (h : m.heldInHunt) (p : PortNo) :
    (m.onPort p Port.clearTallies).heldInHunt := h.onPort p

theorem Part.adoptEntry_heldInHunt (m : Part) (base : Word) (k : Nat) (h : m.heldInHunt) :
    (m.adoptEntry base k).heldInHunt := by
  unfold Part.adoptEntry
  dsimp only
  split
  · exact h.of_ports _ rfl
  split
  · exact h.of_ports _ rfl
  split
  · exact (h.clearTallies _).of_ports _ rfl
  · exact Part.enterRunning_heldInHunt _ base

theorem Part.heldInHunt_law : Part.Law Part.heldInHunt where
  frame m m' same h := by
    obtain ⟨-, -, -, -, -, -, ports, -, -⟩ := m.same_of_lawView m' same
    exact h.of_ports m' ports
  reset := Part.reset.heldInHunt_of_silent fun p => congrArg Port.tx (Part.reset_port p)
  starts m base _ h := h.of_ports _ (m.startLoading_same base).2.1
  stopsLoading m _ h := h.of_ports _ m.stopInLoading_same.2.1
  stops m _ h := m.enterStopping_heldInHunt h
  sweepStarts m _ _ h := h.of_ports _ rfl
  sweepLate m _ _ _ h := h.of_ports _ rfl
  clears m h p := by
    rw [Part.clearAllTallies, Part.port_onPorts]
    exact h p
  loads m base bytes _ h := h.of_ports _ (m.loaderReadDone_same base bytes).2.1
  sweepReads m base bytes h := h.of_ports _ (m.sweepReadDone_goesOn base bytes).1
  portBurst m p len data h := by
    unfold Part.portBurstDone
    dsimp only
    split
    · exact h
    split
    · exact Part.heldInHunt.portAccessDone p (h.onPort p) _
    · exact h.onPort p
  written m len h := by
    unfold Part.writerDone
    split
    · exact h
    · exact h.of_ports _ rfl
  portFails m p _ h := h.portBusError p
  faults m code addr _ _ :=
    Part.heldInHunt_of_silent _ fun p => congrArg Port.tx (m.port_onPorts p Port.faulted)
  port m m' p _ event h := event.heldInHunt p h
  piece m m' base _ does h := does.heldInHunt h
  quietPiece m m' base does h := by
    cases does with
    | clears p rest =>
      unfold Part.clearEntry
      dsimp only
      split <;> exact h.of_ports _ rfl
    | adopts k => exact m.adoptEntry_heldInHunt base k h

/-- Settles O57: DRVEN is asserted by `Port.startTx` alone, which puts the receiver machine in HUNT, and while it is
asserted a character or a start edge leaves the receiver machine as it is. -/
theorem receiverHeldWhileTransmitting : Obligations.ReceiverHeldWhileTransmitting :=
  fun s t held h => Part.heldInHunt_law.step s t h held

end Sys2Proof.Machine

/-! PROOF. What a command answers with, said once: an event of the part, an event of the bus, a register write or a reset;
and the laws of memory and of the register window that follow (R152, R161 to R165, R177). -/

namespace Sys2Proof.Machine

/-! ### The answer of a command -/

/-- BASE is as it was, a written BASE or 0. -/
def Window.baseFollows (w v : Window) : Prop :=
  v.base = w.base ∨ (∃ value lanes, v.base = writtenBase value lanes) ∨ v.base = 0

/-- What command `c` makes of state `s`. -/
inductive State.Answers (s : State) (c : Instr) : State → Prop where
  | keeps : s.Answers c s
  | event (f : Word → Part → Part) : s.Answers c (s.onPart f)
  | burst (f : Word → Part → Part) (mem : List Host.Cell) (ends : endsBurst c = true)
      (canonical : Memory.wf s.memory = true → Memory.wf mem = true) : s.Answers c ((s.onPart f).setMemory mem)
  | register (t : State) (writes : writesWindow c = true) (memory : t.memory = s.memory)
      (pending : t.pending = s.pending) (base : s.window.baseFollows t.window) : s.Answers c t
  | resets (w : Window) (writes : writesWindow c = true) (ends : c.wellFormed = true → endsBurst c = true)
      (base : s.window.baseFollows w) : s.Answers c (s.afterReset w)

section Answers
variable {c : Instr} (s : State)

theorem State.Answers.unlessReset {s t : State} (h : s.Answers c t) : s.Answers c (s.unlessReset t) := by
  unfold State.unlessReset
  split
  · exact .keeps
  · exact h

/-- An accepted command of CONTROL. -/
theorem State.Answers.accept (writes : writesWindow c = true) (code : BitVec 3) (f : Word → Part → Part) :
    s.Answers c (s.accept code f) := by
  obtain ⟨window, memory, pending⟩ := s.onPart_fields f
  exact .register _ writes memory pending (.inl rfl)

/-- A refused command of CONTROL, or a refused write of BASE. -/
theorem State.Answers.refuse (writes : writesWindow c = true) : s.Answers c s.refuse :=
  .register _ writes rfl rfl (.inl rfl)

theorem State.takeStart_answers (writes : writesWindow c = true) : s.Answers c s.takeStart := by
  unfold State.takeStart
  split
  case h_1 | h_2 => exact .accept s writes _ _
  all_goals exact .refuse s writes

theorem State.takeStop_answers (writes : writesWindow c = true) : s.Answers c s.takeStop := by
  unfold State.takeStop
  split
  case h_1 | h_2 => exact .accept s writes _ _
  all_goals exact .refuse s writes

theorem State.takeSweepNow_answers (writes : writesWindow c = true) : s.Answers c s.takeSweepNow := by
  unfold State.takeSweepNow
  split
  case h_1 => exact .accept s writes _ _
  all_goals exact .refuse s writes

theorem State.takeClearTallies_answers (writes : writesWindow c = true) : s.Answers c s.takeClearTallies := by
  unfold State.takeClearTallies
  split
  case h_1 | h_2 => exact .accept s writes _ _
  all_goals exact .refuse s writes

theorem State.takeBase_answers (writes : writesWindow c = true) (value : Word) (lanes : Lanes) :
    s.Answers c (s.takeBase (writtenBase value lanes)) := by
  unfold State.takeBase
  split
  case h_1 | h_2 => exact .register _ writes rfl rfl (.inr (.inl ⟨value, lanes, rfl⟩))
  all_goals exact .refuse s writes

/-- A write to CONTROL that is no command's own row resets nothing. -/
theorem State.takeOther_answers (reg : OtherRegister) (value : Word) (lanes : Lanes) :
    s.Answers (.otherRegisterWrite reg value lanes) (s.takeOther reg (laneValue value lanes)) := by
  cases reg with
  | status | faultAddress => exact .keeps
  | control =>
    simp only [State.takeOther, State.writeControl]
    split
    · exact s.takeStart_answers rfl
    split
    · exact s.takeStop_answers rfl
    split
    · next reset =>
      refine .resets _ rfl (fun formed => ?_) (.inl rfl)
      simp [Instr.wellFormed, otherRegisterWriteOk, isCommandCode, reset] at formed
    split
    · exact s.takeSweepNow_answers rfl
    split
    · exact s.takeClearTallies_answers rfl
    · exact .refuse s rfl

theorem Part.memoryDone_wf (m : Part) (mem : List Host.Cell) (h : Memory.wf mem = true) :
    Memory.wf (m.memoryDone mem) = true := by
  unfold Part.memoryDone
  split
  · exact h
  · exact Memory.wf_writeBytes _ _ _ h

theorem Part.memoryCut_wf (m : Part) (mem : List Host.Cell) (h : Memory.wf mem = true) :
    Memory.wf (m.memoryCut mem) = true := by
  unfold Part.memoryCut
  split
  · exact h
  · exact Memory.wf_writeTaken _ _ _ _ _ h

theorem State.burstAnswered_answers (answer : BusAnswer) :
    s.Answers (.burstAnswered answer) (if s.part.awaits answer.event then
      (s.onPart fun base m => m.burstDone base answer.data.toList).setMemory (s.part.memoryDone s.memory)
    else s.onPart fun _ m => m) := by
  split
  · exact .burst _ _ rfl (s.part.memoryDone_wf _)
  · exact .event _

end Answers

/-- Every command answers with a state, which it makes in one of these ways. -/
theorem exec_answers (c : Instr) (s : State) : ∃ t, exec c s = .next t ∧ s.Answers c t := by
  cases c
  case start => exact ⟨_, rfl, (s.takeStart_answers rfl).unlessReset⟩
  case stop => exact ⟨_, rfl, (s.takeStop_answers rfl).unlessReset⟩
  case softReset => exact ⟨_, rfl, State.Answers.unlessReset (.resets _ rfl (fun _ => rfl) (.inl rfl))⟩
  case sweepNow => exact ⟨_, rfl, (s.takeSweepNow_answers rfl).unlessReset⟩
  case clearTallies => exact ⟨_, rfl, (s.takeClearTallies_answers rfl).unlessReset⟩
  case baseWrite value lanes => exact ⟨_, rfl, (s.takeBase_answers rfl value lanes).unlessReset⟩
  case attentionWrite => exact ⟨_, rfl, State.Answers.unlessReset (.register _ rfl rfl rfl (.inl rfl))⟩
  case otherRegisterWrite reg value lanes => exact ⟨_, rfl, (s.takeOther_answers reg value lanes).unlessReset⟩
  case pinReset => exact ⟨_, rfl, .resets _ rfl (fun _ => rfl) (.inr (.inr rfl))⟩
  case pinResetRelease => exact ⟨_, rfl, .register _ rfl rfl rfl (.inl rfl)⟩
  case burstAnswered answer => exact ⟨_, rfl, s.burstAnswered_answers answer⟩
  case busError | busAnswerTimeout => exact ⟨_, rfl, .burst _ _ rfl (s.part.tick.memoryCut_wf _)⟩
  all_goals exact ⟨_, rfl, .event _⟩

theorem exec_answers_of_next (c : Instr) (s t : State) (h : exec c s = .next t) : s.Answers c t := by
  obtain ⟨t', answer, answers⟩ := exec_answers c s
  cases answer.symm.trans h
  exact answers

/-! ### Every answer -/

theorem State.setMemory_fields (s : State) (mem : List Host.Cell) :
    (s.setMemory mem).window = s.window ∧ (s.setMemory mem).pending = s.pending ∧ (s.setMemory mem).part = s.part ∧
    (s.setMemory mem).memory = if s.window.resetAsserted then s.memory else mem := by
  unfold State.setMemory
  split <;> exact ⟨rfl, rfl, rfl, rfl⟩

theorem State.Answers.pending {c : Instr} {s t : State} (h : s.Answers c t) : t.pending = s.pending := by
  cases h with
  | keeps | resets => rfl
  | event f => exact (s.onPart_fields f).2.2
  | burst f mem => exact ((s.onPart f).setMemory_fields mem).2.1.trans (s.onPart_fields f).2.2
  | register t _ _ pending => exact pending

theorem State.Answers.memory {c : Instr} {s t : State} (h : s.Answers c t) (formed : c.wellFormed = true)
    (other : endsBurst c = false) : t.memory = s.memory := by
  cases h with
  | keeps => rfl
  | event f => exact (s.onPart_fields f).2.1
  | burst f mem ends => rw [other] at ends; cases ends
  | register t _ memory => exact memory
  | resets w _ ends => have := ends formed; rw [other] at this; cases this

theorem State.Answers.window {c : Instr} {s t : State} (h : s.Answers c t) (other : writesWindow c = false) :
    t.window = s.window := by
  cases h with
  | keeps => rfl
  | event f => exact (s.onPart_fields f).1
  | burst f mem => exact ((s.onPart f).setMemory_fields mem).1.trans (s.onPart_fields f).1
  | register t writes | resets w writes => rw [other] at writes; cases writes

theorem State.Answers.base {c : Instr} {s t : State} (h : s.Answers c t) : s.window.baseFollows t.window := by
  cases h with
  | keeps => exact .inl rfl
  | event f => exact .inl (congrArg Window.base (s.onPart_fields f).1)
  | burst f mem =>
    exact .inl (congrArg Window.base (((s.onPart f).setMemory_fields mem).1.trans (s.onPart_fields f).1))
  | register t _ _ _ base => exact base
  | resets w _ _ base => exact base

theorem State.Answers.memory_wf {c : Instr} {s t : State} (h : s.Answers c t) (canonical : Memory.wf s.memory = true) :
    Memory.wf t.memory = true := by
  cases h with
  | keeps => exact canonical
  | event f => rw [(s.onPart_fields f).2.1]; exact canonical
  | burst f mem _ kept =>
    rw [((s.onPart f).setMemory_fields mem).2.2.2, (s.onPart_fields f).2.1]
    split
    · exact canonical
    · exact kept canonical
  | register t _ memory => rw [memory]; exact canonical
  | resets w => exact s.part.tick.memoryCut_wf _ canonical

/-! ### BASE and the canonical form of memory (R165) -/

theorem writtenBase_aligned (value : Word) (lanes : Lanes) : (writtenBase value lanes).extractLsb' 0 8 = 0 := by
  apply BitVec.eq_of_getLsbD_eq
  intro i small
  have low : (4294967040#32).getLsbD i = false := by interval_cases i <;> rfl
  simp [writtenBase, low]

/-- Settles O59: BASE changes at BASE_WRITE, which clears its low bits, and at the resets alone; memory changes by whole
bytes, written in their place. -/
theorem baseAlignedAndMemoryCanonical : Obligations.BaseAlignedAndMemoryCanonical := by
  intro s t aligned canonical h
  unfold step at h
  split at h
  · cases h
    exact ⟨aligned, canonical⟩
  · next c rest _ =>
    have answers := exec_answers_of_next c _ t h
    refine ⟨?_, answers.memory_wf canonical⟩
    unfold State.baseAligned
    obtain same | ⟨value, lanes, written⟩ | zero := answers.base
    · rw [same]
      exact aligned
    · rw [written]
      exact writtenBase_aligned value lanes
    · rw [zero]
      rfl

/-- Settles O60: the values of the reset (R177). -/
theorem lawsHoldAtReset : Obligations.LawsHoldAtReset := by
  refine ⟨Part.reset_quiet, Part.reset_quiet.grantsAgree rfl, Nat.zero_le _,
    Part.heldInHunt_law.reset, Part.faultCodeAgrees_law.reset, fun _ => rfl, fun _ absent => ?_, rfl, rfl⟩
  cases absent

/-! ### Steps and answers -/

/-- Settles O1: the definition of a step, for a queue that holds a command. -/
theorem stepTakesFrontCommand : Obligations.StepTakesFrontCommand := by
  intro c rest s front
  rw [step, front]

/-- Settles O2, by the ways in which a command answers. -/
theorem everyCommandAnswersNext : Obligations.EveryCommandAnswersNext := by
  intro c s
  obtain ⟨t, answer, answers⟩ := exec_answers c s
  exact ⟨t, answer, answers.pending⟩

/-- Settles O4, by the ways in which a command answers. -/
theorem memoryAndWindowChangeOnlyAtTheirCommands : Obligations.MemoryAndWindowChangeOnlyAtTheirCommands :=
  ⟨fun c s t formed other h => (exec_answers_of_next c s t h).memory formed other,
    fun c s t other h => (exec_answers_of_next c s t h).window other⟩

/-! ### The end of a burst (R161, R163) -/

/-- The bytes of a write abandoned or failed at event `event` are each old or new. -/
theorem Memory.read_writeTaken_inside (mem : List Host.Cell) (event a i k : Nat) (bytes : List Byte)
    (h : k < bytes.length) :
    Memory.read (Memory.writeTaken mem event a i bytes) (a + i + k) = some bytes[k] ∨
      Memory.read (Memory.writeTaken mem event a i bytes) (a + i + k) = Memory.read mem (a + i + k) := by
  induction bytes generalizing mem i k with
  | nil => simp at h
  | cons v rest ih =>
    unfold Memory.writeTaken
    cases k with
    | zero =>
      rw [Memory.read_writeTaken_outside _ _ _ _ _ _ (by omega)]
      split
      · exact .inl (by simp [Memory.read_writeByte])
      · exact .inr rfl
    | succ k =>
      have place : a + i + (k + 1) = a + (i + 1) + k := by omega
      rw [place]
      refine (ih _ (i + 1) k (by simpa using h)).imp id fun same => same.trans ?_
      split
      · rw [Memory.read_writeByte, if_neg (by omega)]
      · rfl

/-- What a cut burst leaves of memory, byte by byte. -/
theorem Part.memoryCut_reads (m : Part) (mem : List Host.Cell) (b : Burst) (inProgress : m.bus = some b) :
    (∀ (i : Nat) (h : i < (m.burstBytes b).length),
      Memory.read (m.memoryCut mem) (b.addr + i) = some ((m.burstBytes b)[i]) ∨
        Memory.read (m.memoryCut mem) (b.addr + i) = Memory.read mem (b.addr + i)) ∧
    ∀ a, (a < b.addr ∨ b.addr + (m.burstBytes b).length ≤ a) →
      Memory.read (m.memoryCut mem) a = Memory.read mem a := by
  rw [Part.memoryCut, inProgress]
  exact ⟨fun i h => Memory.read_writeTaken_inside _ _ _ 0 i _ h,
    fun a outside => Memory.read_writeTaken_outside _ _ _ 0 a _ outside⟩

/-- The commands that cut a burst leave the memory that the burst has brought so far. -/
theorem exec_cutsBurst (s : State) (c : Instr) (h : c = .busError ∨ c = .busAnswerTimeout ∨ c = .softReset ∨ c = .pinReset)
    (released : s.window.resetAsserted = false) :
    ∃ t, exec c s = .next t ∧ t.memory = s.part.tick.memoryCut s.memory := by
  have fails : s.burstFails.memory = s.part.tick.memoryCut s.memory := by
    have window := (s.onPart_fields fun _ => Part.burstFailed).1
    rw [State.burstFails, ((s.onPart fun _ => Part.burstFailed).setMemory_fields _).2.2.2, window, released]
    rfl
  obtain rfl | rfl | rfl | rfl := h
  · exact ⟨_, rfl, fails⟩
  · exact ⟨_, rfl, fails⟩
  · exact ⟨_, exec_softReset s released, rfl⟩
  · exact ⟨_, rfl, rfl⟩

/-- Settles O6: each byte of the burst lands or not, and nothing else is written. -/
theorem cutBurstLeavesOldOrNewBytes : Obligations.CutBurstLeavesOldOrNewBytes := by
  intro s c cuts released
  obtain ⟨t, answer, memory⟩ := exec_cutsBurst s c cuts released
  refine ⟨t, answer, fun free => ?_, fun b inProgress => ?_⟩
  · have noBurst : s.part.tick.bus = none := free
    rw [memory, Part.memoryCut, noBurst]
  · rw [memory]
    exact s.part.tick.memoryCut_reads s.memory b inProgress

/-- Settles O5: the answer of the burst in progress writes its bytes; any other answer is an event without effect of its
own. -/
theorem answeredBurstWritesExactlyItsBytes : Obligations.AnsweredBurstWritesExactlyItsBytes := by
  refine ⟨fun s answer b released inProgress named => ?_, fun s answer released other => ?_⟩
  · have awaited : s.part.awaits answer.event = true := by simp [Part.awaits, inProgress, named]
    refine ⟨_, congrArg Host.Outcome.next (if_pos awaited), ?_⟩
    have window := (s.onPart_fields fun base m => m.burstDone base answer.data.toList).1
    rw [(State.setMemory_fields _ _).2.2.2, window, released, Part.memoryDone, inProgress]
    exact ⟨fun i h => Memory.read_writeBytes_inside _ _ i _ h,
      fun a outside => Memory.read_writeBytes_outside _ _ a _ outside⟩
  · have ignored : s.part.awaits answer.event = false := by
      unfold Part.awaits
      split
      · rfl
      · next b inProgress => simpa using other b inProgress
    have idle : exec (.burstAnswered answer) s = .next (s.onPart fun _ m => m) :=
      congrArg Host.Outcome.next (if_neg (by simp [ignored]))
    rw [idle, s.onPart_ends _ released]

/-! ### The resets (R177) -/

/-- What the registers read after a reset with the given registers. -/
theorem State.afterReset_reads (s : State) (w : Window) (cleared : w.enables = 0) (accepted : w.refused = false) :
    (s.afterReset w).part = { Part.reset with eventNo := s.part.eventNo + 1 } ∧
    readStatus (s.afterReset w) = 0 ∧ readAttention (s.afterReset w) = 0 ∧ readFaultAddress (s.afterReset w) = 0 ∧
    intPin (s.afterReset w) = false ∧ ∀ p, ((s.afterReset w).part.port p).drven = false := by
  have part : (s.afterReset w).part = { Part.reset with eventNo := s.part.eventNo + 1 } := rfl
  have window : (s.afterReset w).window = w := rfl
  refine ⟨part, ?_, ?_, rfl, (s.afterReset_attention w cleared).2.2, fun p => ?_⟩
  · simp [readStatus, part, window, accepted, Part.reset, Sweep.reset, EngineState.code, Presence.code, FaultCode.code]
  · simp [readAttention, part, window, cleared, Part.reset]
  · exact congrArg Port.drven (Part.reset_port p)

/-- Settles O10: the state after SOFT_RESET, and what its registers read. -/
theorem softResetReturnsEveryBlock : Obligations.SoftResetReturnsEveryBlock := by
  intro s released
  obtain ⟨part, status, attention, faultAddress, int, lines⟩ := s.afterReset_reads s.window.afterSoftReset rfl rfl
  exact ⟨_, exec_softReset s released, rfl, rfl, part, rfl, rfl, status, attention, faultAddress, int, lines⟩

/-- An event of the part has no effect while RESET_N is asserted. -/
theorem State.onPart_of_asserted (s : State) (f : Word → Part → Part) (asserted : s.window.resetAsserted = true) :
    s.onPart f = s := by
  simp [State.onPart, asserted]

theorem State.unlessReset_of_asserted (s t : State) (asserted : s.window.resetAsserted = true) :
    s.unlessReset t = s := by
  simp [State.unlessReset, asserted]

theorem State.setMemory_of_asserted (s : State) (mem : List Host.Cell) (asserted : s.window.resetAsserted = true) :
    s.setMemory mem = s := by
  simp [State.setMemory, asserted]

/-- While RESET_N is asserted only the pin's own commands have an effect (R164, R177). -/
theorem exec_of_asserted (c : Instr) (s : State) (asserted : s.window.resetAsserted = true) (notReset : c ≠ .pinReset)
    (notRelease : c ≠ .pinResetRelease) : exec c s = .next s := by
  have same (f : Word → Part → Part) := s.onPart_of_asserted f asserted
  have fails : s.burstFails = s := by
    rw [State.burstFails, same, s.setMemory_of_asserted _ asserted]
  cases c
  case pinReset => exact absurd rfl notReset
  case pinResetRelease => exact absurd rfl notRelease
  case start | stop | softReset | sweepNow | clearTallies | baseWrite | attentionWrite | otherRegisterWrite =>
    exact congrArg Host.Outcome.next (s.unlessReset_of_asserted _ asserted)
  case busError | busAnswerTimeout => exact congrArg Host.Outcome.next fails
  case burstAnswered answer =>
    refine congrArg Host.Outcome.next ?_
    rw [same, same, s.setMemory_of_asserted _ asserted, ite_self]
  all_goals exact congrArg Host.Outcome.next (same _)

/-- Settles O11: the state after PIN_RESET, and the guard that every other command meets while RESET_N is asserted. -/
theorem pinResetReturnsEveryBlockAndMasksCommands : Obligations.PinResetReturnsEveryBlockAndMasksCommands := by
  refine ⟨fun s => ?_, exec_of_asserted, fun s => rfl⟩
  obtain ⟨part, status, attention, faultAddress, int, lines⟩ := s.afterReset_reads Window.inPinReset rfl rfl
  exact ⟨_, rfl, rfl, rfl, part, rfl, rfl, status, attention, faultAddress, int, lines⟩

/-! ### Register writes with RESET_N released (R164 to R167) -/

theorem exec_otherRegisterWrite (s : State) (reg : OtherRegister) (value : Word) (lanes : Lanes)
    (released : s.window.resetAsserted = false) :
    exec (.otherRegisterWrite reg value lanes) s = .next (s.takeOther reg (laneValue value lanes)) :=
  congrArg Host.Outcome.next (s.unlessReset_of_released _ released)

/-- Settles O14, by the engine state in which BASE is written. -/
theorem baseWriteIsAlignedOrRefused : Obligations.BaseWriteIsAlignedOrRefused := by
  intro s value lanes released
  have written : exec (.baseWrite value lanes) s = .next (s.takeBase (writtenBase value lanes)) :=
    congrArg Host.Outcome.next (s.unlessReset_of_released _ released)
  rw [written]
  refine ⟨?_, ?_⟩
  · rintro (idle | idle) <;> rw [State.takeBase, idle] <;> rfl
  · rintro (busy | busy | busy | busy) <;> rw [State.takeBase, busy] <;> rfl

/-- A code that no command has is refused. -/
theorem State.writeControl_of_noCommand (s : State) (code : Word) (none : isCommandCode code = false) :
    s.writeControl code = s.refuse := by
  simp only [isCommandCode, Bool.or_eq_false_iff, beq_eq_false_iff_ne] at none
  obtain ⟨⟨⟨⟨n1, n2⟩, n3⟩, n4⟩, n5⟩ := none
  rw [State.writeControl, if_neg n1, if_neg n2, if_neg n3, if_neg n4, if_neg n5]

/-! ### STATUS (R167) -/

/-- The bits of STATUS, each a bit of one field (Table 12-14). -/
theorem readStatus_getLsbD (s : State) (i : Nat) (word : i < 32) :
    (readStatus s).getLsbD i =
      if i < 8 then s.part.engine.code.getLsbD i
      else if i < 16 then s.part.setupError.getLsbD (i - 8)
      else if i = 16 then decide (s.part.sweep.presence = .absent)
      else if i = 17 then s.window.refused
      else if 24 ≤ i then s.part.faultCode.code.getLsbD (i - 24)
      else false := by
  cases presence : s.part.sweep.presence <;> cases refused : s.window.refused <;> interval_cases i <;>
    simp [readStatus, presence, refused, Presence.code]

theorem field_eq_of_bits {w : Word} {start len : Nat} {v : BitVec len}
    (bits : ∀ i, i < len → w.getLsbD (start + i) = v.getLsbD i) : w.extractLsb' start len = v := by
  apply BitVec.eq_of_getLsbD_eq
  intro i inField
  rw [BitVec.getLsbD_extractLsb', decide_eq_true inField, Bool.true_and, bits i inField]

/-- Settles O17: the register writes by their register and code; the fields of STATUS bit by bit. -/
theorem otherRegisterWritesAndStatusFields : Obligations.OtherRegisterWritesAndStatusFields := by
  refine ⟨fun s value lanes released => ⟨?_, ?_, fun noCommand => ?_⟩, fun s => ?_⟩
  · exact exec_otherRegisterWrite s .status value lanes released
  · exact exec_otherRegisterWrite s .faultAddress value lanes released
  · rw [exec_otherRegisterWrite s .control value lanes released, State.takeOther,
      s.writeControl_of_noCommand _ noCommand]
    rfl
  · refine ⟨field_eq_of_bits ?_, field_eq_of_bits ?_, field_eq_of_bits ?_, field_eq_of_bits ?_, ?_, ?_,
      field_eq_of_bits ?_, field_eq_of_bits ?_, field_eq_of_bits ?_⟩
    · intro i inField
      rw [readStatus_getLsbD s _ (by omega), if_pos (by omega), Nat.zero_add]
      cases s.part.engine <;> interval_cases i <;> rfl
    · intro i inField
      rw [readStatus_getLsbD s _ (by omega), if_pos (by omega)]
      cases s.part.engine <;> interval_cases i <;> rfl
    · intro i inField
      rw [readStatus_getLsbD s _ (by omega), if_neg (by omega), if_pos (by omega), Nat.add_sub_cancel_left]
    · intro i inField
      rw [readStatus_getLsbD s _ (by omega), if_neg (by omega), if_pos (by omega), BitVec.getLsbD_of_ge _ _ (by omega)]
      simp
    · rw [readStatus_getLsbD s 16 (by omega)]
      simp
    · rw [readStatus_getLsbD s 17 (by omega)]
      simp
    · intro i inField
      rw [readStatus_getLsbD s _ (by omega), if_neg (by omega), if_neg (by omega), if_neg (by omega)]
      interval_cases i <;> rfl
    · intro i inField
      rw [readStatus_getLsbD s _ (by omega), if_neg (by omega), if_neg (by omega), if_neg (by omega), if_neg (by omega),
        if_pos (by omega), Nat.add_sub_cancel_left]
      cases s.part.faultCode <;> rfl
    · intro i inField
      rw [readStatus_getLsbD s _ (by omega), if_neg (by omega), if_neg (by omega), if_neg (by omega), if_neg (by omega),
        if_pos (by omega), BitVec.getLsbD_of_ge _ _ (by omega)]
      simp

end Sys2Proof.Machine

/-! PROOF. What one event does (R155), and the commands of CONTROL: what they set in the register window and how their own
effects begin (R143, R166, R168, R172, R174, R175, R181). -/

namespace Sys2Proof.Machine

/-! ### What no internal work changes -/

theorem Part.steady_of_control {m m' : Part} {stage : Option StopStage}
    (same : m'.control = { m.control with stopSequence := stage }) : m'.steady = m.steady :=
  congrArg (fun v : ControlView => SteadyView.mk v.setup v.setupError v.faultCode v.faultAddress v.eventNo) same

theorem Part.Piece.steady {m m' : Part} {base : Word} (does : m.Piece base m') : m'.steady = m.steady := by
  obtain ⟨stage, same⟩ | rfl := does.control
  · exact Part.steady_of_control same
  · rfl

theorem Part.enterRunning_steady (m : Part) (base : Word) : (m.enterRunning base).steady = m.steady := by
  unfold Part.enterRunning
  dsimp only
  split <;> rfl

theorem Part.QuietPiece.steady {m m' : Part} {base : Word} (does : m.QuietPiece base m') : m'.steady = m.steady := by
  cases does with
  | clears p rest =>
    unfold Part.clearEntry
    dsimp only
    split <;> rfl
  | adopts k =>
    unfold Part.adoptEntry
    dsimp only
    (repeat' split)
    · rfl
    · rfl
    · rfl
    · exact Part.enterRunning_steady _ base

theorem Part.Works.steady {m m' : Part} {base : Word} (works : m.Works base m') : m'.steady = m.steady := by
  cases works with
  | piece k m' _ steady _ does => exact does.steady.trans steady
  | quietPiece k m' _ steady does => exact does.steady.trans steady
  | aside m' _ steady => exact steady

theorem Part.grantBus_steady (m : Part) : m.grantBus.steady = m.steady := by
  simp [Part.steady, Part.grantBus_fields]

theorem Part.finish_steady (base : Word) (m : Part) : (Part.finish base m).steady = m.steady :=
  Part.finish_keeps base (fun k => k.steady = m.steady)
    (fun k k' work same => (k.settleStep_works base k' work).steady.trans same)
    (fun k same => k.grantBus_steady.trans same) m rfl

/-! ### The pieces of internal work in their order -/

/-- The first piece of work of a list that there is. -/
def firstPiece (l : List (Option Part)) : Option Part := l.foldr orElse none

theorem firstPiece_eq_none (l : List (Option Part)) : firstPiece l = none ↔ ∀ x ∈ l, x = none := by
  induction l with
  | nil => simp [firstPiece]
  | cons x l ih =>
    have cons : firstPiece (x :: l) = orElse x (firstPiece l) := rfl
    rw [cons, orElse_eq_none, ih, List.forall_mem_cons]

theorem firstPiece_append (before after : List (Option Part)) (t : Part) (nothing : ∀ x ∈ before, x = none) :
    firstPiece (before ++ some t :: after) = some t := by
  induction before with
  | nil => rfl
  | cons x before ih =>
    obtain ⟨rfl, others⟩ := List.forall_mem_cons.1 nothing
    exact ih others

theorem orElse_none (a : Option Part) : orElse a none = a := by
  cases a <;> rfl

theorem EngineState.working_iff (e : EngineState) : e.working = true ↔ e = .running ∨ e = .stopping := by
  cases e <;> simp [EngineState.working]

/-- The pieces of internal work of an engine state, in their order (log 45). -/
def Part.pieces (m : Part) (base : Word) : List (Option Part) :=
  if m.engine = .running ∨ m.engine = .stopping then
    [m.claimStep base, m.treeStep base, m.resumeStep 0, m.resumeStep 1, m.resumeStep 2, m.resumeStep 3,
      m.headStep 0, m.headStep 1, m.headStep 2, m.headStep 3, m.jobStep base, m.sweepStep base, m.stopStep base]
  else [m.clearStep base, m.adoptStep base]

theorem Part.settleStep_eq_firstPiece (m : Part) (base : Word) : m.settleStep base = firstPiece (m.pieces base) := by
  unfold Part.settleStep Part.pieces
  by_cases working : m.engine.working = true
  · rw [if_pos working, if_pos ((EngineState.working_iff _).1 working)]
    simp only [Part.workingStep, firstPiece, List.foldr, orElse_none]
  · rw [if_neg working, if_neg fun h => working ((EngineState.working_iff _).2 h)]
    simp only [Part.quietStep, firstPiece, List.foldr, orElse_none]

/-- Settles O3: the work of an event goes on with the first piece that there is, and ends when there is none; no piece
writes the setup, the setup error or the fault. -/
theorem settledEventOnlyGrantsBus : Obligations.SettledEventOnlyGrantsBus := by
  intro m base
  have steady := m.finish_steady base
  refine ⟨congrArg SteadyView.setup steady, congrArg SteadyView.setupError steady, congrArg SteadyView.faultCode steady,
    congrArg SteadyView.faultAddress steady, congrArg SteadyView.eventNo steady, m.finish_of_settled base, rfl, ?_, ?_, ?_⟩
  · show m.settleStep base = none ↔ _
    rw [m.settleStep_eq_firstPiece]
    exact firstPiece_eq_none (m.pieces base)
  · exact fun settled bound => m.settle_of_settled base bound settled
  · intro before after t order nothing bound
    have next : m.settleStep base = some t := by
      rw [m.settleStep_eq_firstPiece, show m.pieces base = before ++ some t :: after from order]
      exact firstPiece_append before after t nothing
    rw [Part.settle, next]

/-! ### The commands of CONTROL -/

section Released
variable (s : State) (released : s.window.resetAsserted = false)
include released

theorem exec_start : exec .start s = .next s.takeStart :=
  congrArg Host.Outcome.next (s.unlessReset_of_released _ released)

theorem exec_stop : exec .stop s = .next s.takeStop :=
  congrArg Host.Outcome.next (s.unlessReset_of_released _ released)

theorem exec_sweepNow : exec .sweepNow s = .next s.takeSweepNow :=
  congrArg Host.Outcome.next (s.unlessReset_of_released _ released)

theorem exec_clearTallies : exec .clearTallies s = .next s.takeClearTallies :=
  congrArg Host.Outcome.next (s.unlessReset_of_released _ released)

theorem State.accept_ends (code : BitVec 3) (f : Word → Part → Part) :
    s.accept code f =
      { s.ends (f s.window.base s.part.tick) with window := { s.window with control := code, refused := false } } := by
  rw [State.accept, s.onPart_ends f released]

end Released

/-- An accepted command of CONTROL reads back, clears the flag and keeps BASE and the enables. -/
theorem State.accept_reads (s : State) (code : BitVec 3) (f : Word → Part → Part) :
    readControl (s.accept code f) = code.zeroExtend 32 ∧ (s.accept code f).window.refused = false ∧
    (s.accept code f).window.base = s.window.base ∧ (s.accept code f).window.enables = s.window.enables :=
  ⟨rfl, rfl, rfl, rfl⟩

/-- What a command of CONTROL does in a state that accepts it, and in one that refuses it. -/
def State.takesCode (s t : State) (code : BitVec 3) : Prop :=
  (acceptedIn code s.part.engine = false → t = s.refuse) ∧
  (acceptedIn code s.part.engine = true → ∃ f, t = s.accept code f)

theorem State.takeStart_takes (s : State) : s.takesCode s.takeStart 1 := by
  unfold State.takesCode State.takeStart
  cases s.part.engine <;> simp [acceptedIn]

theorem State.takeStop_takes (s : State) : s.takesCode s.takeStop 2 := by
  unfold State.takesCode State.takeStop
  cases s.part.engine <;> simp [acceptedIn]

theorem State.takeSweepNow_takes (s : State) : s.takesCode s.takeSweepNow 4 := by
  unfold State.takesCode State.takeSweepNow
  cases s.part.engine <;> simp [acceptedIn]

theorem State.takeClearTallies_takes (s : State) : s.takesCode s.takeClearTallies 5 := by
  unfold State.takesCode State.takeClearTallies
  cases s.part.engine <;> simp [acceptedIn]

/-- Settles O7: RESET is accepted in every state; each other command by its row of Table 10-3. -/
theorem commandsAreAcceptedOrRefused : Obligations.CommandsAreAcceptedOrRefused := by
  intro c code s command released
  have byRow (t : State) (taken : exec c s = .next t) (takes : s.takesCode t code) :
      (acceptedIn code s.part.engine = false → exec c s = .next s.refuse) ∧
      (acceptedIn code s.part.engine = true → ∃ t, exec c s = .next t ∧ readControl t = code.zeroExtend 32 ∧
        t.window.refused = false ∧ t.window.base = s.window.base ∧ (code ≠ 3 → t.window.enables = s.window.enables)) := by
    refine ⟨fun refused => by rw [taken, takes.1 refused], fun accepted => ?_⟩
    obtain ⟨f, rfl⟩ := takes.2 accepted
    obtain ⟨control, flag, base, enables⟩ := s.accept_reads code f
    exact ⟨_, taken, control, flag, base, fun _ => enables⟩
  cases c <;> cases command
  case start => exact byRow _ (exec_start s released) s.takeStart_takes
  case stop => exact byRow _ (exec_stop s released) s.takeStop_takes
  case sweepNow => exact byRow _ (exec_sweepNow s released) s.takeSweepNow_takes
  case clearTallies => exact byRow _ (exec_clearTallies s released) s.takeClearTallies_takes
  case softReset =>
    refine ⟨fun refused => ?_, fun _ => ⟨_, exec_softReset s released, rfl, rfl, rfl, fun other => absurd rfl other⟩⟩
    cases engine : s.part.engine <;> rw [engine] at refused <;> cases refused

/-! ### START and STOP in LOADING (R168, R172) -/

/-- Outside RUNNING and STOPPING, with no entry of CLEAR_TALLIES to be queued and no adoption, nothing is ready. -/
theorem Part.settled_of_noEntries (m : Part) (base : Word) (idle : m.engine.working = false) (clear : m.clearPending = [])
    (adopts : ∀ k, m.loader.phase ≠ .adopting k) : m.settled base := by
  have noAdoption : m.adoptStep base = none := by
    unfold Part.adoptStep
    split
    · next k phase => exact absurd phase (adopts k)
    all_goals rfl
  rw [Part.settled, Part.settleStep, idle, if_neg Bool.false_ne_true, Part.quietStep, orElse_eq_none]
  exact ⟨by rw [Part.clearStep, clear], noAdoption⟩

/-- While engine control waits for room, no entry of CLEAR_TALLIES is queued. -/
theorem Part.settled_of_waiting (m : Part) (base : Word) (idle : m.engine.working = false)
    (waits : m.isWaiting .engineControl) : m.settled base := by
  rw [Part.isWaiting_iff] at waits
  have noStep (t : Part) : (if m.mayQueue .engineControl then some t else m.startWait .engineControl m.eventNo) = none := by
    have never : m.mayQueue .engineControl = false := by simp [Part.mayQueue, waits]
    rw [never, if_neg Bool.false_ne_true, Part.startWait_eq_none]
    exact waits
  rw [Part.settled, Part.settleStep, idle, if_neg Bool.false_ne_true, Part.quietStep, orElse_eq_none]
  constructor
  · unfold Part.clearStep
    split
    · rfl
    · exact noStep _
  · unfold Part.adoptStep
    split
    · exact noStep _
    all_goals rfl

theorem State.takeStart_of_idle (s : State) (idle : s.part.engine = .halted ∨ s.part.engine = .stopped) :
    s.takeStart = s.accept 1 Part.startLoading := by
  unfold State.takeStart
  obtain engine | engine := idle <;> rw [engine]

/-- Settles O8: the read of the global setup is handed over at once when no entry of CLEAR_TALLIES waits. -/
theorem startBeginsLoading : Obligations.StartBeginsLoading := by
  intro s released idle
  have started : exec .start s = .next (s.accept 1 Part.startLoading) := by
    rw [exec_start s released, s.takeStart_of_idle idle]
  refine ⟨fun clear => ?_, fun waiting => ?_⟩
  · have loads : s.part.tick.startLoading s.window.base = { s.part.tick with
        engine := .loading, setupError := 0
        loader := { Loader.reset with phase := .setupRead 0 }
        sweepAccess := some (.read (areaAddress s.window.base 0x040) 32 []) } := by
      have empty : s.part.tick.clearPending = [] := clear
      simp only [Part.startLoading, empty]
      rfl
    have settled : (s.part.tick.startLoading s.window.base).settled s.window.base := by
      rw [loads]
      exact Part.settled_of_noEntries _ _ rfl clear fun k => LoadPhase.noConfusion
    rw [started, s.accept_ends released, State.ends, Part.finish_of_settled _ _ settled, loads]
  · have loads : s.part.tick.startLoading s.window.base = { s.part.tick with
        engine := .loading, setupError := 0, loader := { Loader.reset with phase := .clearing } } := by
      have some : s.part.tick.clearPending.isEmpty = false := by simpa using waiting
      simp only [Part.startLoading, some]
      rfl
    rw [started, s.accept_ends released, loads]

/-- A load that is abandoned before the adoption (R168). -/
theorem Part.stopInLoading_of_notAdopting (m : Part) (adopts : ¬∃ k, m.loader.phase = .adopting k) :
    m.stopInLoading = m.abandonLoad := by
  unfold Part.stopInLoading
  split
  · next k phase => exact absurd ⟨k, phase⟩ adopts
  all_goals rfl

theorem Part.stopInLoading_of_adopting (m : Part) (adopts : ∃ k, m.loader.phase = .adopting k) :
    m.stopInLoading = { m with loader := { m.loader with stopHeld := true } } := by
  obtain ⟨k, phase⟩ := adopts
  rw [Part.stopInLoading, phase]

/-- A port at the entry to STOPPING (R139). -/
theorem Port.leaveGrant_eq (x : Port) :
    x.leaveGrant = if x.activity = .grantedOut ∧ x.peer.grantPhase ≠ .transmitting then
      { x with activity := .idle, peer := { x.peer with grantPhase := .none } } else x := by
  unfold Port.leaveGrant
  by_cases out : x.activity = .grantedOut <;> cases phase : x.peer.grantPhase <;> simp [out]

/-- A bus in progress is not granted again. -/
theorem Part.grantBus_of_busy (m : Part) (b : Burst) (busy : m.bus = some b) : m.grantBus = m := by
  rw [Part.grantBus, busy]

/-- Settles O9: in RUNNING the stop begins; in LOADING the load is abandoned, or, during the adoption, the STOP is
held. -/
theorem stopBeginsStoppingOrEndsLoading : Obligations.StopBeginsStoppingOrEndsLoading := by
  refine ⟨fun s released running => ?_, fun s released loading => ?_⟩
  · have taken : s.takeStop = s.accept 2 fun _ => Part.enterStopping := by rw [State.takeStop, running]
    rw [exec_stop s released, taken, s.accept_ends released]
    have ports : Port.leaveGrant = fun x => if x.activity = .grantedOut ∧ x.peer.grantPhase ≠ .transmitting then
        { x with activity := .idle, peer := { x.peer with grantPhase := .none } } else x :=
      funext Port.leaveGrant_eq
    rw [Part.enterStopping, ports]
    rfl
  · intro abandoned
    have taken : s.takeStop = s.accept 2 fun _ => Part.stopInLoading := by rw [State.takeStop, loading]
    have stopped : exec .stop s = .next { s.ends s.part.tick.stopInLoading with
        window := { s.window with control := 2, refused := false } } := by
      rw [exec_stop s released, taken, s.accept_ends released]
    have abandons (before : ¬∃ k, s.part.loader.phase = .adopting k) : s.part.tick.stopInLoading = abandoned :=
      s.part.tick.stopInLoading_of_notAdopting before
    refine ⟨fun adopting => ?_, fun before => ?_, fun before _ waits => ?_, fun before clear => ?_⟩
    · rw [stopped, s.part.tick.stopInLoading_of_adopting adopting]
      rfl
    · rw [stopped, abandons before]
    · rw [stopped, abandons before, State.ends,
        Part.finish_of_settled _ _ (abandoned.settled_of_waiting s.window.base rfl waits)]
    · have settled : abandoned.settled s.window.base :=
        Part.settled_of_noEntries _ _ rfl clear fun k => LoadPhase.noConfusion
      have ends : (s.ends abandoned).part = abandoned.grantBus := Part.finish_of_settled _ _ settled
      obtain ⟨engine, setupError, -, -, causes, setup, loader, -, -, slots, -, -, -, tables, -, -, ports, sweep, xq, -,
        sweepAccess, -⟩ := abandoned.grantBus_fields
      rw [stopped, abandons before]
      refine ⟨_, rfl, rfl, ?_⟩
      dsimp only
      rw [ends]
      refine ⟨engine, setupError, causes, loader, sweepAccess, setup, slots, tables, sweep, ports, xq, rfl, ?_⟩
      intro b inProgress
      have busy : abandoned.bus = some (if b.who = .sweep then { b with discarded := true } else b) := by
        simp only [abandoned, inProgress, Option.map_some]
      rw [abandoned.grantBus_of_busy _ busy, busy]

/-! ### SWEEP_NOW, the sweep timer and CLEAR_TALLIES (R143, R166, R181) -/

theorem Sweep.inProgress_eq (v : Sweep) : v.inProgress = true ↔ v.phase ≠ .idle := by
  simp [Sweep.inProgress]

theorem satWord_eq (w : Word) : satWord w = if w = 0xFFFFFFFF then 0xFFFFFFFF else w + 1 := by
  unfold satWord
  by_cases full : w = 0xFFFFFFFF
  · simp [full]
  · rw [if_neg (by simpa using full), if_neg full]

/-- Settles O12, by whether a sweep is in progress, and for the timer by sweep-pending and the stop sequence. -/
theorem sweepsStartOrAreMarkedPending : Obligations.SweepsStartOrAreMarkedPending := by
  refine ⟨fun s released running => ?_, fun s released working timer => ?_⟩
  · have taken : exec .sweepNow s = .next { s.ends (s.part.tick.sweepAsked s.window.base) with
        window := { s.window with control := 4, refused := false } } := by
      rw [exec_sweepNow s released, State.takeSweepNow, running]
      exact congrArg Host.Outcome.next (s.accept_ends released 4 _)
    refine ⟨fun idle => ?_, fun busy => ?_⟩
    · have free : ¬s.part.tick.sweep.inProgress = true := fun h => (Sweep.inProgress_eq _).1 h idle
      rw [taken, Part.sweepAsked, if_neg free]
      rfl
    · have runs : s.part.tick.sweep.inProgress = true := (Sweep.inProgress_eq _).2 busy
      rw [taken, Part.sweepAsked, if_pos runs]
      rfl
  · have event : exec .sweepTimerExpiry s = .next (s.ends (s.part.tick.sweepTimerExpired s.window.base)) :=
      congrArg Host.Outcome.next
        (s.onPart_whileWorking (fun base m => m.sweepTimerExpired base) released working)
    have runs : s.part.tick.sweep.timer = true := timer
    have free (idle : s.part.sweep.phase = .idle) : ¬s.part.tick.sweep.inProgress = true :=
      fun h => (Sweep.inProgress_eq _).1 h idle
    have held (busy : s.part.sweep.phase ≠ .idle) : s.part.tick.sweep.inProgress = true :=
      (Sweep.inProgress_eq _).2 busy
    rw [event, Part.sweepTimerExpired, if_pos runs]
    refine ⟨fun idle going => ?_, fun idle stopping => ?_, fun busy clear => ?_, fun busy pending => ?_⟩
    · have goes : ¬s.part.tick.stopSequence.isSome = true := by simp [Part.tick, going]
      rw [if_neg (free idle), if_neg goes]
      rfl
    · have stops : s.part.tick.stopSequence.isSome = true := Option.isSome_iff_ne_none.2 stopping
      rw [if_neg (free idle), if_pos stops]
    · have fresh : ¬s.part.tick.sweep.pending = true := by simp [Part.tick, clear]
      rw [if_pos (held busy), if_neg fresh]
      rfl
    · have marked : s.part.tick.sweep.pending = true := pending
      rw [if_pos (held busy), if_pos marked, satWord_eq]
      rfl

/-- Settles O13, by the engine state in which CLEAR_TALLIES is taken. -/
theorem clearTalliesEmptiesEveryPort : Obligations.ClearTalliesEmptiesEveryPort := by
  intro s released
  refine ⟨fun running => ?_, fun stopped => ?_⟩
  · rw [exec_clearTallies s released, State.takeClearTallies, running]
    exact congrArg Host.Outcome.next (s.accept_ends released 5 _)
  · rw [exec_clearTallies s released, State.takeClearTallies, stopped]
    exact congrArg Host.Outcome.next (s.accept_ends released 5 _)

end Sys2Proof.Machine

/-! PROOF. The field lines: the receiver machine (R69, R72 to R79), the ends of transmissions and the delays that hold one
(R93, R94, R123, R129, R134, R139). -/

namespace Sys2Proof.Machine

/-- An event that only a working engine takes ends what its own effect leaves. -/
theorem State.onWorking_ends (s : State) (f : Part → Part) (released : s.window.resetAsserted = false)
    (working : s.part.engine.working = true) : s.onWorking f = s.ends (f s.part.tick) :=
  s.onPart_whileWorking (fun _ => f) released working

/-! ### The receiver machine -/

theorem Receiver.arrive_hunt (r : Receiver) (v : Byte) (st : CharStatus) (hunt : r.state = .hunt) :
    r.arrive v st =
      if st = .good ∧ v = 0xC5 then (⟨.collect, [], none, 0xFFFF⟩, none) else (r, none) := by
  rw [Receiver.arrive, hunt]
  rfl

theorem Receiver.arrive_discard (r : Receiver) (v : Byte) (st : CharStatus) (discard : r.state = .discard) :
    r.arrive v st = (r, none) := by
  rw [Receiver.arrive, discard]

/-- The gap limit means nothing outside COLLECT. -/
theorem Part.gapPassed_of_not_collect (m : Part) (p : PortNo) (other : (m.port p).receiver.state ≠ .collect) :
    m.gapPassed p = m := by
  unfold Part.gapPassed
  exact if_neg fun h => other h.1

/-- The end of the gap means nothing outside DISCARD. -/
theorem Part.gapComplete_of_not_discard (m : Part) (p : PortNo) (other : (m.port p).receiver.state ≠ .discard) :
    m.gapComplete p = m := by
  unfold Part.gapComplete
  exact if_neg fun h => other h.1

/-- Settles O18, by the arrival in HUNT; a character with none under way leaves the part as it is. -/
theorem huntTakesOnlyGoodLead : Obligations.HuntTakesOnlyGoodLead := by
  intro s p levels edge sinh takes hunt x
  have arrives := exec_characterArrival_taken s p levels edge sinh takes (by simp [hunt])
  rw [Receiver.arrive_hunt _ _ _ hunt] at arrives
  obtain ⟨released, working, -, -, -⟩ := takes
  refine ⟨fun good lead => ?_, fun other => ?_, ?_, ?_, fun m none => ?_⟩
  · rw [if_pos ⟨good, lead⟩] at arrives
    exact arrives
  · rw [if_neg other] at arrives
    exact arrives
  · refine congrArg Host.Outcome.next ((s.onWorking_ends _ released working).trans (congrArg s.ends ?_))
    exact s.part.tick.gapPassed_of_not_collect p (by simp [hunt])
  · refine congrArg Host.Outcome.next ((s.onWorking_ends _ released working).trans (congrArg s.ends ?_))
    exact s.part.tick.gapComplete_of_not_discard p (by simp [hunt])
  · unfold Part.character
    exact if_pos (.inr (.inr none))

/-- A good byte before the length byte is stored and covered. -/
theorem Receiver.arrive_header (r : Receiver) (v : Byte) (collect : r.state = .collect) (none : r.bodyLength = none)
    (early : r.buffer.length < 3) :
    r.arrive v .good = ({ r with buffer := r.buffer ++ [v], check := crcByte r.check v }, .none) := by
  have place : r.buffer.length ≠ 3 := by omega
  simp [Receiver.arrive, collect, Receiver.collectGood, none, place]

/-- A good length byte of 0 to 248 fixes the length of the frame. -/
theorem Receiver.arrive_length (r : Receiver) (v : Byte) (collect : r.state = .collect) (none : r.bodyLength = none)
    (fourth : r.buffer.length = 3) (short : v.toNat ≤ 248) :
    r.arrive v .good =
      ({ r with buffer := r.buffer ++ [v], bodyLength := some v.toNat, check := crcByte r.check v }, .none) := by
  have fits : ¬maxBody < v.toNat := Nat.not_lt.2 short
  have goes : ¬3 + 1 = 6 + v.toNat := by omega
  simp [Receiver.arrive, collect, Receiver.collectGood, none, fourth, fits, goes]

/-- A good byte behind the length byte and before the last is stored; those of the body are covered. -/
theorem Receiver.arrive_body (r : Receiver) (v : Byte) (n : Nat) (collect : r.state = .collect)
    (length : r.bodyLength = some n) (late : 4 ≤ r.buffer.length) (before : r.buffer.length + 1 < 6 + n) :
    r.arrive v .good = ({ r with
      buffer := r.buffer ++ [v]
      check := if r.buffer.length < 4 + n then crcByte r.check v else r.check }, none) := by
  have place : r.buffer.length ≠ 3 := by omega
  have goes : r.buffer.length + 1 ≠ 6 + n := by omega
  simp [Receiver.arrive, collect, Receiver.collectGood, length, place, goes]

/-- Settles O20, by the place of the byte in the frame. -/
theorem collectStoresAndReports : Obligations.CollectStoresAndReports :=
  fun r v collect => ⟨r.arrive_header v collect, r.arrive_length v collect, fun n length late =>
    ⟨r.arrive_body v n collect length late, r.arrive_last v n collect length⟩⟩

/-- Settles O21: the start edge by the state of the receiver machine; the gap in COLLECT by its report. -/
theorem silenceEndsAtEdgeAndAbandonsAtGap : Obligations.SilenceEndsAtEdgeAndAbandonsAtGap := by
  intro s p released working
  refine ⟨fun active => ?_, fun inactive => ?_, fun silent collect quiet other => ?_⟩
  · refine congrArg Host.Outcome.next ((s.onWorking_ends _ released working).trans (congrArg s.ends ?_))
    exact if_neg active
  · refine congrArg Host.Outcome.next ((s.onWorking_ends _ released working).trans (congrArg s.ends ?_))
    exact if_pos inactive
  · refine congrArg Host.Outcome.next ((s.onWorking_ends _ released working).trans (congrArg s.ends ?_))
    have passes : (s.part.tick.port p).receiver.state = .collect ∧ (s.part.tick.port p).silence = true ∧
        (s.part.tick.port p).drven = false := ⟨collect, quiet, by simp [Port.drven, silent]⟩
    unfold Part.gapPassed
    rw [if_pos passes]
    simp [Part.takeReport, Part.unreadable, other, Part.raise, Part.onPort, Port.raise, Tallies.raise, Receiver.hunting]

/-- Settles O22, by the arrival and the gap in DISCARD. -/
theorem discardSkipsUntilSilence : Obligations.DiscardSkipsUntilSilence := by
  refine ⟨fun s p levels edge sinh takes discard => ?_, fun s p released working discard _ quiet => ?_⟩
  · have arrives := exec_characterArrival_taken s p levels edge sinh takes (by simp [discard])
    rw [Receiver.arrive_discard _ _ _ discard] at arrives
    exact arrives
  · refine congrArg Host.Outcome.next ((s.onWorking_ends _ released working).trans (congrArg s.ends ?_))
    exact if_pos ⟨discard, quiet⟩

/-! ### Frames that are only counted -/

/-- A port that does not await an answer counts a frame that it cannot read, and nothing else. -/
theorem Part.unreadable_of_not_awaiting (m : Part) (p : PortNo) (x : Port) (t : Tally) (other : x.activity ≠ .awaiting) :
    (m.setPort p x).unreadable p t = m.setPort p (x.raise t) := by
  unfold Part.unreadable
  rw [Part.port_setPort, if_neg other, Part.raise, Part.onPort, Part.port_setPort, Part.setPort_setPort]

/-- The requests of R108 by their kinds. -/
theorem isRequestFrame_iff (k : Byte) : isRequestFrame k = true ↔
    k ≠ 0x21 ∧ k ≠ 0x22 ∧ k ≠ 0x7E ∧ ¬(0x51 ≤ k.toNat ∧ k.toNat ≤ 0x57) := by
  simp only [isRequestFrame, isReplyCode, kindRefusal, kindBid, kindGrant, Bool.and_eq_true, Bool.not_eq_true',
    Bool.and_eq_false_iff, decide_eq_false_iff_not, bne_iff_ne, BitVec.le_def, BitVec.toNat_ofNat]
  constructor
  · rintro ⟨⟨⟨notReply, notRefusal⟩, notBid⟩, notGrant⟩
    exact ⟨notBid, notGrant, notRefusal, by omega⟩
  · rintro ⟨notBid, notGrant, notRefusal, notReply⟩
    exact ⟨⟨⟨by omega, notRefusal⟩, notBid⟩, notGrant⟩

theorem addressedTo_iff (own : Byte) (f : Frame) : addressedTo own f = true ↔ f.station = own ∨ f.station = 255 := by
  simp [addressedTo]

/-- Settles O23: each of these frames raises its tally alone. -/
theorem unwantedFramesAreOnlyCounted : Obligations.UnwantedFramesAreOnlyCounted := by
  refine ⟨fun s p levels edge sinh takes collect other => ?_, fun s p levels edge sinh f completes => ?_⟩
  · intro r v good x
    have arrives := exec_characterArrival_taken s p levels edge sinh takes (by simp [collect])
    refine ⟨fun spoils => ?_, fun n length last status wrong => ?_⟩
    · rw [Receiver.arrive_spoiled r v _ collect spoils] at arrives
      rw [arrives]
      exact congrArg (fun m => Host.Outcome.next (s.ends m))
        (s.part.tick.unreadable_of_not_awaiting p { x with receiver := _ } .droppedFormat other)
    · rw [show s.part.arrivalStatus p levels edge = .good from status, Receiver.arrive_last r v n collect length last,
        if_neg wrong] at arrives
      rw [arrives]
      exact congrArg (fun m => Host.Outcome.next (s.ends m))
        (s.part.tick.unreadable_of_not_awaiting p { x with receiver := _ } .droppedCheck other)
  · intro x request
    have arrives := exec_characterArrival_good s p levels edge sinh f completes
    have counts (t : Tally) : (s.part.tick.setPort p x).raise p t = s.part.tick.setPort p (x.raise t) := by
      simp [Part.raise, Part.onPort]
    refine ⟨fun master idle => ?_, fun responder busy requests addressed => ?_⟩
    · rw [PortSetup.roleOf_master _ master] at arrives
      have notAwaiting : ((s.part.tick.setPort p x).port p).activity ≠ .awaiting := by
        rw [Part.port_setPort]
        exact idle
      simp only [Part.goodAtMaster] at arrives
      rw [if_neg notAwaiting, counts] at arrives
      exact arrives
    · rw [PortSetup.roleOf_responder _ responder] at arrives
      have takes : (isRequestFrame f.kind && addressedTo ((s.part.tick.setPort p x).portSetup p).ownStation f) = true :=
        Bool.and_eq_true_iff.2 ⟨(isRequestFrame_iff _).2 requests, (addressedTo_iff _ _).2 addressed⟩
      have held : ((s.part.tick.setPort p x).port p).activity.serves = true ∨ (s.part.tick.setPort p x).engine = .stopping := by
        rw [Part.port_setPort]
        exact busy
      simp only [Part.goodAtResponder] at arrives
      rw [if_pos takes, if_pos held, counts] at arrives
      exact arrives

/-! ### Replies -/

/-- An answer enters TURNAROUND, and is sent at once when the turnaround delay has passed. -/
theorem Part.enterTurnaround_eq (m : Part) (p : PortNo) : m.enterTurnaround p =
    m.setPort p (if (m.port p).answerDelay = true then { m.port p with activity := .turnaround, memStep := .none }
      else { m.port p with
        activity := .replying, memStep := .none, tx := some .answer, silence := false
        receiver := { state := .hunt, buffer := [], bodyLength := none, check := 0xFFFF } }) := by
  unfold Part.enterTurnaround
  by_cases waits : (m.port p).answerDelay = true
  · rw [if_pos waits, if_pos waits]
    rfl
  · rw [if_neg waits, if_neg waits]
    simp [Part.onPort, Port.startAnswer, Port.startTx, Receiver.hunting]

/-- Settles O25, by whether the request was a broadcast, and whether its turnaround delay has passed. -/
theorem replyIsKeptForReplay : Obligations.ReplyIsKeptForReplay := by
  intro m p body v answer x
  refine ⟨fun broadcast => ?_, fun addressed waits => ?_, fun addressed passed => ?_⟩
  · unfold Part.reply
    rw [if_pos broadcast]
    rfl
  · have single : ¬(m.port p).service.broadcast = true := by simpa using addressed
    unfold Part.reply
    rw [if_neg single, Part.enterTurnaround_eq]
    simp [Part.onPort, waits, x, v, answer, replyKind]
  · have single : ¬(m.port p).service.broadcast = true := by simpa using addressed
    unfold Part.reply
    rw [if_neg single, Part.enterTurnaround_eq]
    simp [Part.onPort, passed, x, v, answer, replyKind]

/-! ### Ends of transmissions and of the delays before them -/

/-- Settles O27, by what the port transmitted. -/
theorem endOfTransmissionReleasesLine : Obligations.EndOfTransmissionReleasesLine := by
  intro s p released working x
  have event (f : Part → Part) (m' : Part) (effect : f s.part.tick = m') :
      Host.Outcome.next (s.onWorking f) = (.next (s.ends m') : Result) := by
    rw [s.onWorking_ends f released working, effect]
  refine ⟨fun w work sent addressed => ?_, fun w work sent broadcast delay => ?_, fun sent => ?_, fun sent running => ?_,
    fun sent stopping => ?_, fun sent => ?_⟩
  · refine event (fun m => m.requestEnds p) _ ?_
    have run : (s.part.tick.port p).run.work = some w := work
    have sending : (s.part.tick.port p).tx = some .request := sent
    have single : ¬(w.order.station == 255) = true := by simpa using addressed
    simp only [Part.requestEnds, Part.requestSent]
    rw [if_pos sending, run]
    simp only [if_neg single, Part.onPort, Part.port_setPort, Part.setPort_setPort]
    rfl
  · refine event (fun m => m.requestEnds p) _ ?_
    have run : (s.part.tick.port p).run.work = some w := work
    have sending : (s.part.tick.port p).tx = some .request := sent
    have all : (w.order.station == 255) = true := by simpa using broadcast
    have waits : ¬(s.part.tick.portSetup p).turnaround = 0 := delay
    simp only [Part.requestEnds, Part.requestSent]
    rw [if_pos sending, run]
    simp only [if_pos all, if_neg waits, Part.onPort, Part.port_setPort, Part.setPort_setPort]
    rfl
  · refine event (fun m => m.bidEnds p) _ ?_
    exact if_pos sent
  · refine event (fun m => m.grantEnds p) _ ?_
    have goesOn : ¬s.part.tick.engine = .stopping := by simp [running]
    exact (if_pos sent).trans (if_neg goesOn)
  · refine event (fun m => m.grantEnds p) _ ?_
    exact (if_pos sent).trans (if_pos stopping)
  · refine event (fun m => m.answerEnds p) _ ?_
    exact if_pos sent

/-- The line holdoff ends, and the request or BID that waited for it is sent. -/
theorem Part.holdoffPasses_eq (m : Part) (p : PortNo) : m.holdoffPasses p =
    let x : Port := { m.port p with holdoff := false }
    m.setPort p (if x.activity = .sending ∧ x.tx = none then x.startTx .request
      else if x.activity = .bidding ∧ x.peer.bidPhase = .holdoff then (x.startTx .bid).bidOut else x) := by
  unfold Part.holdoffPasses Part.startWaiting
  simp only [Part.onPort, Part.port_setPort, Part.setPort_setPort]
  (repeat' split) <;> rfl

theorem Part.turnaroundEnds_eq (m : Part) (p : PortNo) : m.turnaroundEnds p =
    let x : Port := { m.port p with answerDelay := false }
    m.setPort p (if x.activity = .turnaround then x.startAnswer else x) := by
  unfold Part.turnaroundEnds
  simp only [Part.onPort, Part.port_setPort, Part.setPort_setPort]
  split <;> rfl

/-- Settles O28, by what waits for the delay. -/
theorem passedDelayStartsTransmission : Obligations.PassedDelayStartsTransmission := by
  intro s p released working x
  have event (f : Part → Part) (m' : Part) (effect : f s.part.tick = m') :
      Host.Outcome.next (s.onWorking f) = (.next (s.ends m') : Result) := by
    rw [s.onWorking_ends f released working, effect]
  refine ⟨fun sending silent => ?_, fun bidding waits => ?_, fun grants pending => ?_, fun answers => ?_,
    fun idle => ?_, fun serving => ?_⟩
  · exact event (fun m => m.holdoffPasses p) _
      ((Part.holdoffPasses_eq _ p).trans (congrArg (s.part.tick.setPort p) (if_pos ⟨sending, silent⟩)))
  · have notSending (h : (s.part.port p).activity = .sending ∧ (s.part.port p).tx = none) : False := by
      rw [bidding] at h
      cases h.1
    exact event (fun m => m.holdoffPasses p) _ ((Part.holdoffPasses_eq _ p).trans
      (congrArg (s.part.tick.setPort p) ((if_neg notSending).trans (if_pos ⟨bidding, waits⟩))))
  · exact event (fun m => m.grantHoldEnds p) _ (if_pos ⟨grants, pending⟩)
  · exact event (fun m => m.turnaroundEnds p) _
      ((Part.turnaroundEnds_eq _ p).trans (congrArg (s.part.tick.setPort p) (if_pos answers)))
  · have notSending (h : (s.part.port p).activity = .sending ∧ (s.part.port p).tx = none) : False := by
      rw [h.1] at idle
      simp at idle
    have notBidding (h : (s.part.port p).activity = .bidding ∧ (s.part.port p).peer.bidPhase = .holdoff) : False := by
      rw [h.1] at idle
      simp at idle
    exact event (fun m => m.holdoffPasses p) _ ((Part.holdoffPasses_eq _ p).trans
      (congrArg (s.part.tick.setPort p) ((if_neg notSending).trans (if_neg notBidding))))
  · have notHeld : ¬(s.part.port p).activity = .turnaround := by simp [serving]
    exact event (fun m => m.turnaroundEnds p) _
      ((Part.turnaroundEnds_eq _ p).trans (congrArg (s.part.tick.setPort p) (if_neg notHeld)))

end Sys2Proof.Machine

/-! PROOF. Runs: what ends an attempt, and how the port goes on (R92 to R106, R131, R137). -/

namespace Sys2Proof.Machine

/-! ### Operations of a port right after an update of it -/

section Updated
variable (m : Part) (p : PortNo) (x : Port)

theorem Part.raise_setPort (t : Tally) : (m.setPort p x).raise p t = m.setPort p (x.raise t) := by
  simp [Part.raise, Part.onPort]

theorem Part.onPort_setPort (f : Port → Port) : (m.setPort p x).onPort p f = m.setPort p (f x) := by
  simp [Part.onPort]

/-- The fault record of a run in progress. -/
def Part.runFault (m : Part) (w : Work) (tag : Byte) (kind : FaultKind) (reason : Byte) : FaultRecord :=
  ⟨kind, BitVec.ofNat 8 w.slot.val, w.order.station, w.order.kind, tag, reason, m.sweep.count⟩

/-- An attempt that fails with attempts left and a turnaround delay: the port waits. -/
theorem Part.attemptFailed_waits (f : RunFailure) (left : x.run.started < x.run.allowed) (running : m.engine = .running)
    (waits : x.retryWaitOver (m.portSetup p).turnaround f m.eventNo = false) :
    (m.setPort p x).attemptFailed p f =
      m.setPort p { x with run := { x.run with lastFailure := some f }, activity := .retryWait } := by
  have again : ((m.setPort p x).port p).run.started < ((m.setPort p x).port p).run.allowed ∧
      (m.setPort p x).engine = .running := by
    rw [Part.port_setPort]
    exact ⟨left, running⟩
  have wait : ((m.setPort p x).port p).retryWaitOver ((m.setPort p x).portSetup p).turnaround f
      (m.setPort p x).eventNo = false := by
    rw [Part.port_setPort]
    exact waits
  rw [Part.attemptFailed, if_pos again, wait, if_neg Bool.false_ne_true, Part.onPort_setPort, Part.onPort_setPort]

variable {x} {w : Work} (work : x.run.work = some w)
include work

theorem Port.hasRun_of_work : x.hasRun = true := by simp [Port.hasRun, work]

theorem Part.fillRunFault_setPort (kind : FaultKind) (reason : Byte) :
    (m.setPort p x).fillRunFault p kind reason = m.setPort p { x with fault := m.runFault w x.run.tag kind reason } := by
  rw [Part.fillRunFault, Part.port_setPort, work]
  exact m.onPort_setPort p x _

theorem Part.endRun_setPort (outcome reason : Byte) :
    (m.setPort p x).endRun p outcome reason = { m.setPort p { x with
        activity := .idle, memStep := .none, run := { x.run with ending := some ⟨outcome, reason⟩ } } with
      jobs := m.jobs ++ [⟨.runEnding p, m.eventNo⟩] } := by
  rw [Part.endRun, Part.port_setPort, if_pos (Port.hasRun_of_work work), Part.onPort_setPort]
  rfl

/-- An attempt that fails with attempts left, and whose wait is over at once: the next attempt starts. -/
theorem Part.attemptFailed_starts (f : RunFailure) (left : x.run.started < x.run.allowed) (running : m.engine = .running)
    (isOver : x.retryWaitOver (m.portSetup p).turnaround f m.eventNo = true)
    (role : (m.portSetup p).role = 1 ∨ (m.portSetup p).role = 3) :
    (m.setPort p x).attemptFailed p f = m.setPort p (x.startsAttempt (m.portSetup p) m.eventNo) := by
  have retries := (m.setPort p x).attemptFailed_retries p f (by simpa using Port.hasRun_of_work work) (by simpa using left)
    running (by simpa using role)
  simpa [isOver] using retries

/-- An attempt that fails as the last one, or in STOPPING: the run ends. -/
theorem Part.attemptFailed_last (f : RunFailure) (last : ¬(x.run.started < x.run.allowed ∧ m.engine = .running)) :
    (m.setPort p x).attemptFailed p f = { m.setPort p { x with
        activity := .idle, memStep := .none
        run := { x.run with lastFailure := some f, ending := some f.ending } } with
      jobs := m.jobs ++ [⟨.runEnding p, m.eventNo⟩] } := by
  have ends := (m.setPort p x).attemptFailed_ends p f (by simpa using Port.hasRun_of_work work) (by simpa using last)
  simpa using ends

end Updated

/-! ### The end of an attempt as a command's effect -/

/-- With the effect of an attempt that fails, by a failure that is not the bid limit, the command leaves the port waiting,
starting its next attempt, or with its run ended. -/
theorem State.attempt_fails (s : State) (p : PortNo) (c : Instr) (x : Port) (w : Work) (k : RunFailure)
    (work : x.run.work = some w) (other : k ≠ .noGrant)
    (effect : exec c s = .next (s.ends ((s.part.tick.setPort p x).attemptFailed p k))) :
    (x.run.started < x.run.allowed → s.part.engine = .running → (s.part.portSetup p).turnaround ≠ 0 →
      exec c s = .next (s.ends (s.part.tick.setPort p
        { x with run := { x.run with lastFailure := some k }, activity := .retryWait }))) ∧
    (x.run.started < x.run.allowed → s.part.engine = .running → (s.part.portSetup p).turnaround = 0 →
      (s.part.portSetup p).role = 1 ∨ (s.part.portSetup p).role = 3 →
      exec c s = .next (s.ends (s.part.tick.setPort p (x.startsAttempt (s.part.portSetup p) (s.part.eventNo + 1))))) ∧
    (¬(x.run.started < x.run.allowed ∧ s.part.engine = .running) →
      exec c s = .next (s.ends { s.part.tick.setPort p { x with
          activity := .idle, memStep := .none
          run := { x.run with lastFailure := some k, ending := some k.ending } } with
        jobs := s.part.jobs ++ [⟨.runEnding p, s.part.eventNo + 1⟩] })) := by
  refine ⟨fun left running delay => ?_, fun left running none role => ?_, fun last => ?_⟩
  · have waits : x.retryWaitOver (s.part.tick.portSetup p).turnaround k s.part.tick.eventNo = false := by
      simpa [Port.retryWaitOver] using fun none => absurd none delay
    rw [effect, Part.attemptFailed_waits s.part.tick p x k left running waits]
  · have isOver : x.retryWaitOver (s.part.tick.portSetup p).turnaround k s.part.tick.eventNo = true :=
      (Port.retryWaitOver_iff _ _ _ _).2 ⟨none, fun h => other h.1⟩
    rw [effect, Part.attemptFailed_starts s.part.tick p work k left running isOver role]
    rfl
  · rw [effect, Part.attemptFailed_last s.part.tick p work k last]
    rfl

/-- A frame that a port in AWAITING could not read ends the attempt GARBLED, once it is counted. -/
theorem Part.unreadable_awaiting (m : Part) (p : PortNo) (x : Port) (w : Work) (t : Tally) (awaits : x.activity = .awaiting)
    (work : x.run.work = some w) :
    (m.setPort p x).unreadable p t =
      (m.setPort p { x.raise t with fault := m.runFault w x.run.tag .garbled 0 }).attemptFailed p .garbled := by
  unfold Part.unreadable
  rw [Part.port_setPort, if_pos awaits, Part.raise_setPort, Part.attemptGarbled,
    Part.fillRunFault_setPort m p (x := x.raise t) work]
  rfl

/-! ### Answers in AWAITING -/

theorem byte_toNat_ne {k c : Byte} (h : ¬k = c) : k.toNat ≠ c.toNat := fun same => h (BitVec.eq_of_toNat_eq same)

/-- Table 4-8 for a reply. -/
theorem replyConsistent_iff (o : Order) (body : List Byte) : replyConsistent o body = true ↔
    let length := body.length
    let names : Prop := byteAt body 0 = o.remoteTable ∧ halfAt body 1 = o.remoteIndex
    let echoes : Prop := names ∧ halfAt body 3 = o.count
    (o.kind = 0x11 ∧ length = 5 + 2 * o.count.toNat ∧ echoes) ∨
    (o.kind = 0x12 ∧ length = 5 + (o.count.toNat + 7) / 8 ∧ echoes) ∨
    ((o.kind = 0x13 ∨ o.kind = 0x14) ∧ length = 5 ∧ echoes) ∨ (o.kind = 0x15 ∧ length = 7 ∧ names) ∨
    (o.kind = 0x16 ∧ length = 6) ∨ (¬(0x11 ≤ o.kind.toNat ∧ o.kind.toNat ≤ 0x16) ∧ length = 0) := by
  simp only [replyConsistent, isStore, kindFetchWords, kindFetchBits, kindStoreWords, kindStoreBits, kindModifyWord,
    kindProbe, bodyTable, bodyIndex, bodyCount, bitBytes, beq_iff_eq, Bool.or_eq_true]
  by_cases fetchWords : o.kind = 0x11
  · simp [fetchWords, and_assoc]
  by_cases fetchBits : o.kind = 0x12
  · simp [fetchBits, and_assoc]
  by_cases store : o.kind = 0x13 ∨ o.kind = 0x14
  · obtain store | store := store <;> simp [store, and_assoc]
  by_cases modify : o.kind = 0x15
  · simp [modify, and_assoc]
  by_cases probe : o.kind = 0x16
  · simp [probe]
  · have other : ¬(0x11 ≤ o.kind.toNat ∧ o.kind.toNat ≤ 0x16) := by
      have notStore := not_or.1 store
      have words := byte_toNat_ne fetchWords
      have bits := byte_toNat_ne fetchBits
      have storeWords := byte_toNat_ne notStore.1
      have storeBits := byte_toNat_ne notStore.2
      have modifies := byte_toNat_ne modify
      have probes := byte_toNat_ne probe
      simp only [BitVec.reduceToNat] at words bits storeWords storeBits modifies probes
      omega
    simp only [fetchWords, fetchBits, store, modify, probe, other, false_and, false_or, not_false_eq_true, true_and,
      if_false, beq_iff_eq]

/-- Table 4-8 for a refusal. -/
theorem refusalConsistent_iff (o : Order) (body : List Byte) : refusalConsistent o body = true ↔
    body.length = 2 ∧ byteAt body 0 = o.kind ∧ 1 ≤ (byteAt body 1).toNat ∧ (byteAt body 1).toNat ≤ 8 := by
  simp [refusalConsistent, BitVec.le_def, and_assoc]

section Answers
variable (m : Part) (p : PortNo) {x : Port} {w : Work} (f : Frame) (work : x.run.work = some w)
include work

/-- A GOOD frame in AWAITING, by its station and tag, its kind and its body. -/
theorem Part.answerInAwaiting_cases :
    (¬(f.station = w.order.station ∧ f.tag = x.run.tag) ∨ (f.kind ≠ w.order.kind + 0x40 ∧ f.kind ≠ 0x7E) →
      (m.setPort p x).answerInAwaiting p f = m.setPort p (x.raise .foreign)) ∧
    (f.station = w.order.station ∧ f.tag = x.run.tag →
      (f.kind = w.order.kind + 0x40 →
        (m.setPort p x).answerInAwaiting p f =
          if replyConsistent w.order f.body then (m.setPort p x).replyAccepted p w.order f.body
          else (m.setPort p x).attemptGarbled p) ∧
      (f.kind ≠ w.order.kind + 0x40 → f.kind = 0x7E →
        (m.setPort p x).answerInAwaiting p f =
          if refusalConsistent w.order f.body then (m.setPort p x).refusalReceived p (byteAt f.body 1)
          else (m.setPort p x).attemptGarbled p)) := by
  have foreign := m.raise_setPort p x .foreign
  simp only [Part.answerInAwaiting, Part.port_setPort, work, replyKind, kindRefusal, Bool.and_eq_true, beq_iff_eq]
  refine ⟨fun other => ?_, fun named => ⟨fun reply => ?_, fun notReply refusal => ?_⟩⟩
  · rw [if_neg (by tauto), if_neg (by tauto), foreign]
  · rw [if_pos ⟨named, reply⟩]
  · rw [if_neg (fun h => notReply h.2), if_pos ⟨named, refusal⟩]

theorem Part.attemptGarbled_setPort : (m.setPort p x).attemptGarbled p =
    (m.setPort p { x with fault := m.runFault w x.run.tag .garbled 0 }).attemptFailed p .garbled := by
  rw [Part.attemptGarbled, Part.fillRunFault_setPort m p work]

theorem Part.replyAccepted_cases (body : List Byte) :
    (w.order.kind = 0x11 ∨ w.order.kind = 0x12 →
      (m.setPort p x).replyAccepted p w.order body = { m.setPort p
          { x with activity := .depositing, dataHold := body, memStep := .none } with
        inbox := m.inbox ++ [.arrive p (tableNo w.order.localTable) .exclusive w.order.localIndex.toNat
          w.order.count.toNat] }) ∧
    (w.order.kind ≠ 0x11 → w.order.kind ≠ 0x12 →
      (m.setPort p x).replyAccepted p w.order body = { m.setPort p { x with
          activity := .idle, memStep := .none
          run := { x.run with replyData := replyDataOf w.order body, ending := some ⟨0, 0⟩ } } with
        jobs := m.jobs ++ [⟨.runEnding p, m.eventNo⟩] }) := by
  have fetch : isFetch w.order.kind = true ↔ w.order.kind = 0x11 ∨ w.order.kind = 0x12 := by
    simp [isFetch, kindFetchWords, kindFetchBits]
  refine ⟨fun fetches => ?_, fun notWords notBits => ?_⟩
  · rw [Part.replyAccepted, if_pos (fetch.2 fetches), Part.onPort_setPort]
    rfl
  · have other : ¬isFetch w.order.kind = true := fun h => (fetch.1 h).elim notWords notBits
    rw [Part.replyAccepted, if_neg other, Part.onPort_setPort,
      Part.endRun_setPort m p (x := { x with run := { x.run with replyData := replyDataOf w.order body } }) work]
    rfl

/-- A refusal received (R102). -/
theorem Part.refusalReceived_cases (reason : Byte) :
    let y : Port := { x.raise .refusalsReceived with fault := m.runFault w x.run.tag .refusalReceived reason }
    (reason = 6 → (m.setPort p x).refusalReceived p reason = (m.setPort p y).attemptFailed p .busy) ∧
    (reason ≠ 6 → (m.setPort p x).refusalReceived p reason = { m.setPort p { y with
        activity := .idle, memStep := .none, run := { x.run with ending := some ⟨0x12, reason⟩ } } with
      jobs := m.jobs ++ [⟨.runEnding p, m.eventNo⟩] }) := by
  intro y
  have filled : ((m.setPort p x).raise p .refusalsReceived).fillRunFault p .refusalReceived reason = m.setPort p y := by
    rw [Part.raise_setPort, Part.fillRunFault_setPort m p (x := x.raise .refusalsReceived) work]
    rfl
  have workY : y.run.work = some w := work
  simp only [Part.refusalReceived, filled, reasonBusy, beq_iff_eq]
  refine ⟨fun busy => if_pos busy, fun other => ?_⟩
  rw [if_neg other, Part.endRun_setPort m p workY]
  rfl

end Answers

/-- A frame that a port in AWAITING takes for an answer: any at a MASTER port, and one of a reply kind or REFUSAL at a
PEER port (R95). -/
theorem exec_characterArrival_answer (s : State) (p : PortNo) (levels : Levels) (edge sinh : Bool) (f : Frame)
    (completes : s.completesFrame p levels edge f) (awaits : (s.part.port p).activity = .awaiting)
    (taken : (s.part.portSetup p).role = 1 ∨
      ((s.part.portSetup p).role = 3 ∧ (f.kind = 0x7E ∨ (0x51 ≤ f.kind.toNat ∧ f.kind.toNat ≤ 0x57)))) :
    exec (.characterArrival p levels edge sinh) s =
      .next (s.ends ((s.part.tick.setPort p (s.part.reported p)).answerInAwaiting p f)) := by
  have arrives := exec_characterArrival_good s p levels edge sinh f completes
  have activity : ((s.part.tick.setPort p (s.part.reported p)).port p).activity = .awaiting := by
    rw [Part.port_setPort]
    exact awaits
  rw [arrives]
  obtain master | ⟨peer, answer⟩ := taken
  · rw [PortSetup.roleOf_master _ master]
    simp only [Part.goodAtMaster]
    rw [if_pos activity]
  · have notBid : isPartnerBid ((s.part.tick.setPort p (s.part.reported p)).portSetup p).ownStation f = false := by
      have : f.kind ≠ kindBid := by
        rintro bid
        simp [bid, kindBid] at answer
      simp [isPartnerBid, this]
    have notRequest : isRequestFrame f.kind = false := by
      rw [Bool.eq_false_iff, Ne, isRequestFrame_iff]
      rintro ⟨-, -, notRefusal, notReply⟩
      exact answer.elim notRefusal notReply
    rw [PortSetup.roleOf_peer _ peer]
    simp only [Part.goodAtPeer, notBid, Part.isGrantToRun, Part.isPeerRequest, notRequest, activity]
    simp

/-- Settles O29: the four ways in which an attempt's wait for its answer ends, and what each makes of the port. -/
theorem replyTimeoutEndsAttempt : Obligations.ReplyTimeoutEndsAttempt := by
  intro s p w released working awaits work o r ended failed fault
  have fails (c : Instr) (x : Port) (k : RunFailure) (run : x.run = r) (other : k ≠ .noGrant)
      (effect : exec c s = .next (s.ends ((s.part.tick.setPort p x).attemptFailed p k))) : failed c x k k.ending := by
    have outcomes := s.attempt_fails p c x w k (by rw [run]; exact work) other effect
    rw [run] at outcomes
    exact outcomes
  refine ⟨?_, fun silent collect quiet => ?_, fun levels edge sinh takes collect => ?_,
    fun levels edge sinh f completes taken => ?_⟩
  · refine fails _ _ _ rfl (by decide) ?_
    refine congrArg Host.Outcome.next ((s.onWorking_ends _ released working).trans (congrArg s.ends ?_))
    have activity : (s.part.tick.port p).activity = .awaiting := awaits
    rw [Part.replyTimedOut, if_pos activity, Part.timerLapses, Part.onPort, Part.raise_setPort,
      Part.fillRunFault_setPort s.part.tick p (x := Port.raise { s.part.tick.port p with lapsed := _ } .replyTimeouts) work]
    rfl
  · refine fails _ _ _ rfl (by decide) ?_
    refine congrArg Host.Outcome.next ((s.onWorking_ends _ released working).trans (congrArg s.ends ?_))
    have passes : (s.part.tick.port p).receiver.state = .collect ∧ (s.part.tick.port p).silence = true ∧
        (s.part.tick.port p).drven = false := ⟨collect, quiet, by simp [Port.drven, silent]⟩
    simp only [Part.gapPassed]
    rw [if_pos passes]
    exact s.part.tick.unreadable_awaiting p { s.part.port p with receiver := Receiver.hunting } w .droppedGap awaits work
  · intro x
    have arrives := exec_characterArrival_taken s p levels edge sinh takes (by simp [collect])
    refine ⟨fun spoils => ?_, fun good wrong => ?_⟩
    · refine fails _ _ _ rfl (by decide) ?_
      rw [Receiver.arrive_spoiled _ _ _ collect spoils] at arrives
      rw [arrives]
      exact congrArg (fun m => Host.Outcome.next (s.ends m))
        (s.part.tick.unreadable_awaiting p { s.part.port p with
          underWay := _, silence := _, receiver := { Receiver.hunting with state := .discard } } w .droppedFormat awaits work)
    · refine fails _ _ _ rfl (by decide) ?_
      rw [good, wrong] at arrives
      rw [arrives]
      exact congrArg (fun m => Host.Outcome.next (s.ends m))
        (s.part.tick.unreadable_awaiting p { s.part.port p with
          underWay := _, silence := _, receiver := Receiver.hunting } w .droppedCheck awaits work)
  · intro c x matches_ length names echoes replyAgrees refusalAgrees
    have arrives := exec_characterArrival_answer s p levels edge sinh f completes awaits taken
    have workX : x.run.work = some w := work
    obtain ⟨foreign, named⟩ := s.part.tick.answerInAwaiting_cases p f workX
    have reply : replyConsistent o f.body = true ↔ replyAgrees := replyConsistent_iff o f.body
    have refusal : refusalConsistent o f.body = true ↔ refusalAgrees := refusalConsistent_iff o f.body
    have garbled (m : Part) (effect : m = (s.part.tick.setPort p x).attemptGarbled p)
        (h : exec c s = .next (s.ends m)) : failed c { x with fault := fault .garbled 0 } .garbled ⟨0x11, 0⟩ := by
      refine fails _ _ _ rfl (by decide) ?_
      rw [h, effect, s.part.tick.attemptGarbled_setPort p workX]
      rfl
    refine ⟨fun matched isReply agrees => ?_, fun matched notAgrees => ?_, fun matched notReply isRefusal agrees => ?_,
      fun other => ?_⟩
    · rw [(named matched).1 isReply, if_pos (reply.2 agrees)] at arrives
      obtain ⟨fetch, other⟩ := s.part.tick.replyAccepted_cases p workX f.body
      refine ⟨fun fetches => ?_, fun notWords notBits => ?_⟩
      · rw [arrives, fetch fetches]
        rfl
      · have data : replyDataOf o f.body =
            if o.kind = 0x15 then #v[byteAt f.body 3, byteAt f.body 4, byteAt f.body 5, byteAt f.body 6, 0, 0, 0, 0]
            else if o.kind = 0x16 then #v[byteAt f.body 0, byteAt f.body 1, byteAt f.body 2, byteAt f.body 3,
              byteAt f.body 4, byteAt f.body 5, 0, 0]
            else zeroReply := by
          simp only [replyDataOf, kindModifyWord, kindProbe, beq_iff_eq]
        show exec c s = _
        rw [arrives, other notWords notBits, data]
        rfl
    · refine garbled _ ?_ arrives
      obtain ⟨isReply, disagrees⟩ | ⟨notReply, isRefusal, disagrees⟩ := notAgrees
      · rw [(named matched).1 isReply, if_neg (mt reply.1 disagrees)]
      · rw [(named matched).2 notReply isRefusal, if_neg (mt refusal.1 disagrees)]
    · intro y
      rw [(named matched).2 notReply isRefusal, if_pos (refusal.2 agrees)] at arrives
      obtain ⟨busy, other⟩ := s.part.tick.refusalReceived_cases p workX (byteAt f.body 1)
      refine ⟨fun isBusy => ?_, fun notBusy => ?_⟩
      · refine fails _ _ _ rfl (by decide) ?_
        rw [arrives, busy isBusy]
        rfl
      · show exec c s = _
        rw [arrives, other notBusy]
        rfl
    · rw [arrives, foreign other]
      rfl

end Sys2Proof.Machine

/-! PROOF. Peer links and the beginning of a run: BIDs, GRANTs and requests at a PEER port, its timers, and the head-taking
(R42, R87 to R93, R106, R129 to R139). -/

namespace Sys2Proof.Machine

/-! ### GOOD frames at a PEER port -/

theorem isPartnerBid_iff (own : Byte) (f : Frame) :
    isPartnerBid own f = true ↔ f.kind = 0x21 ∧ f.station = own ∧ f.body = [] := by
  simp [isPartnerBid, kindBid, and_assoc]

theorem isRequestCode_iff (k : Byte) : isRequestCode k = true ↔ 0x11 ≤ k.toNat ∧ k.toNat ≤ 0x17 := by
  have known : isRequestCode k = true ↔
      ((k = 0x11 ∨ k = 0x12) ∨ (k = 0x13 ∨ k = 0x14)) ∨ k = 0x15 ∨ k = 0x16 ∨ k = 0x17 := by
    simp [isRequestCode, isFetch, isStore, kindFetchWords, kindFetchBits, kindStoreWords, kindStoreBits, kindModifyWord,
      kindProbe, kindClearTally, or_assoc]
  simp only [known, ← BitVec.toNat_inj, BitVec.reduceToNat]
  omega

/-- A broadcast is served for these kinds alone (Table 6-3). -/
theorem isBroadcastable_iff (k : Byte) : isBroadcastable k = true ↔ k = 0x13 ∨ k = 0x14 ∨ k = 0x17 := by
  simp [isBroadcastable, isStore, kindStoreWords, kindStoreBits, kindClearTally, or_assoc]

/-- A partner BID (R132). -/
def Frame.bids (f : Frame) (own : Byte) : Prop := f.kind = 0x21 ∧ f.station = own ∧ f.body = []

/-- A GRANT to the run of a port in BIDDING (R130). -/
def Frame.grantsRun (f : Frame) (own : Byte) (x : Port) : Prop :=
  x.activity = .bidding ∧ f.kind = 0x22 ∧ f.station = own ∧ f.body = [] ∧ x.run.work ≠ none ∧ f.tag = x.run.tag

/-- A request at a PEER port (R108; Table 5-4 note 1). -/
def Frame.asks (f : Frame) (own : Byte) (x : Port) : Prop :=
  (f.kind ≠ 0x21 ∧ f.kind ≠ 0x22 ∧ f.kind ≠ 0x7E ∧ ¬(0x51 ≤ f.kind.toNat ∧ f.kind.toNat ≤ 0x57)) ∧
    (f.station = own ∨ f.station = 255) ∧ (x.activity = .awaiting → 0x11 ≤ f.kind.toNat ∧ f.kind.toNat ≤ 0x17)

section Peer
variable (m : Part) (p : PortNo) (x : Port) (f : Frame) (sinh : Bool)

theorem Part.isGrantToRun_iff :
    (m.setPort p x).isGrantToRun p f = true ↔ f.grantsRun (m.portSetup p).ownStation x := by
  simp [Part.isGrantToRun, Frame.grantsRun, kindGrant, Port.hasRun, and_assoc, Option.isSome_iff_ne_none]

theorem Part.isPeerRequest_iff :
    (m.setPort p x).isPeerRequest p f = true ↔ f.asks (m.portSetup p).ownStation x := by
  simp only [Part.isPeerRequest, Frame.asks, Bool.and_eq_true, Bool.or_eq_true, isRequestFrame_iff, addressedTo_iff,
    isRequestCode_iff, decide_eq_true_eq, Part.port_setPort, Part.setPort_reads, and_assoc]
  tauto

theorem Part.goodAtPeer_bid (bids : f.bids (m.portSetup p).ownStation) :
    (m.setPort p x).goodAtPeer p f sinh =
      if m.engine = .stopping then m.setPort p x else (m.setPort p x).partnerBid p f.tag :=
  if_pos ((isPartnerBid_iff _ _).2 bids)

theorem Part.goodAtPeer_grant (grants : f.grantsRun (m.portSetup p).ownStation x) :
    (m.setPort p x).goodAtPeer p f sinh =
      m.setPort p ({ x with peer := { x.peer with bidPhase := .none } } : Port).entersSending := by
  have notBid : ¬isPartnerBid (m.portSetup p).ownStation f = true := by
    rw [isPartnerBid_iff, grants.2.1]
    rintro ⟨kind, -⟩
    cases kind
  have accepted : (m.setPort p x).goodAtPeer p f sinh = (m.setPort p x).grantAccepted p :=
    (if_neg notBid).trans (if_pos ((m.isGrantToRun_iff p x f).2 grants))
  rw [accepted, Part.grantAccepted, Part.onPort_setPort, Part.enterSending_eq, Part.port_setPort, Part.setPort_setPort]

theorem Part.goodAtPeer_request (asks : f.asks (m.portSetup p).ownStation x) :
    (m.setPort p x).goodAtPeer p f sinh = (m.setPort p x).requestAtPeer p f sinh := by
  obtain ⟨⟨notBidKind, notGrantKind, -, -⟩, -⟩ := id asks
  have notBid : ¬isPartnerBid (m.portSetup p).ownStation f = true := by
    rw [isPartnerBid_iff]
    exact fun h => notBidKind h.1
  have notGrant : ¬(m.setPort p x).isGrantToRun p f = true := by
    rw [Part.isGrantToRun_iff]
    exact fun h => notGrantKind h.2.1
  exact (if_neg notBid).trans ((if_neg notGrant).trans (if_pos ((m.isPeerRequest_iff p x f).2 asks)))

theorem Part.goodAtPeer_other (notBid : ¬f.bids (m.portSetup p).ownStation)
    (notGrant : ¬f.grantsRun (m.portSetup p).ownStation x) (notRequest : ¬f.asks (m.portSetup p).ownStation x) :
    (m.setPort p x).goodAtPeer p f sinh =
      if x.activity = .awaiting then (m.setPort p x).answerInAwaiting p f else m.setPort p (x.raise .foreign) := by
  rw [← Part.raise_setPort]
  have other : (m.setPort p x).goodAtPeer p f sinh = if ((m.setPort p x).port p).activity = .awaiting then
      (m.setPort p x).answerInAwaiting p f else (m.setPort p x).raise p .foreign :=
    (if_neg (mt (isPartnerBid_iff _ _).1 notBid)).trans ((if_neg (mt (m.isGrantToRun_iff p x f).1 notGrant)).trans
      (if_neg (mt (m.isPeerRequest_iff p x f).1 notRequest)))
  rw [other, Part.port_setPort]

/-- A partner BID in RUNNING, by the state of the port (Table 7-3). -/
theorem Part.partnerBid_cases (tag : Byte) :
    (x.activity = .idle ∨ x.activity = .grantedOut →
      (m.setPort p x).partnerBid p tag = m.setPort p (x.grants (m.portSetup p) tag)) ∧
    (x.activity = .bidding → (m.portSetup p).partnerStation.toNat < (m.portSetup p).ownStation.toNat →
      (m.setPort p x).partnerBid p tag = m.setPort p (({ x.raise .bidsLost with
        run := { x.run with suspended := true }, peer := { x.peer with bidPhase := .none } } : Port).grants
          (m.portSetup p) tag)) ∧
    (x.activity = .bidding → ¬(m.portSetup p).partnerStation.toNat < (m.portSetup p).ownStation.toNat →
      (m.setPort p x).partnerBid p tag = m.setPort p x) ∧
    (x.activity ≠ .idle → x.activity ≠ .grantedOut → x.activity ≠ .bidding →
      (m.setPort p x).partnerBid p tag = m.setPort p x) := by
  have grants (y : Port) : (m.setPort p y).grant p tag = m.setPort p (y.grants (m.portSetup p) tag) := by
    rw [Part.grant_eq, Part.port_setPort, Part.setPort_setPort]
    rfl
  simp only [Part.partnerBid, Part.port_setPort]
  refine ⟨fun free => ?_, fun bidding lower => ?_, fun bidding higher => ?_, fun notIdle notOut notBidding => ?_⟩
  · obtain idle | out := free
    · rw [idle]
      exact grants x
    · rw [out]
      exact grants x
  · rw [bidding]
    refine (if_pos lower).trans ?_
    rw [Part.yieldLine, Part.raise_setPort, Part.onPort_setPort, grants]
    rfl
  · rw [bidding]
    exact if_neg higher
  · cases activity : x.activity <;> simp [activity] at notIdle notOut notBidding ⊢

/-- A request at a PEER port, by the state of the port and of the engine. -/
theorem Part.requestAtPeer_cases :
    (x.activity.serves = true ∨ m.engine = .stopping →
      (m.setPort p x).requestAtPeer p f sinh = m.setPort p (x.raise .droppedBusy)) ∧
    (x.activity.serves = false → m.engine ≠ .stopping → ¬(x.activity = .grantedOut ∧ x.peer.grantPhase = .granted) →
      (m.setPort p x).requestAtPeer p f sinh = m.setPort p (x.raise .droppedUnbid)) ∧
    (m.engine ≠ .stopping → x.activity = .grantedOut → x.peer.grantPhase = .granted →
      (m.setPort p x).requestAtPeer p f sinh = (m.setPort p x).requestAtReady p f sinh) := by
  simp only [Part.requestAtPeer, Part.port_setPort, Part.raise_setPort, Part.setPort_fields]
  refine ⟨fun busy => if_pos busy, fun free goesOn unbid => ?_, fun goesOn out granted => ?_⟩
  · rw [if_neg (by simp [free, goesOn]), if_neg unbid]
  · rw [if_neg (by simp [out, goesOn, Activity.serves]), if_pos ⟨out, granted⟩]

theorem Part.requestAtReady_cases :
    (f.station = 255 → ¬(f.kind = 0x13 ∨ f.kind = 0x14 ∨ f.kind = 0x17) →
      (m.setPort p x).requestAtReady p f sinh = m.setPort p (x.raise .droppedFormat)) ∧
    (f.station ≠ 255 ∨ (f.kind = 0x13 ∨ f.kind = 0x14 ∨ f.kind = 0x17) →
      (m.setPort p x).requestAtReady p f sinh = (m.setPort p x).acceptRequest p f sinh) := by
  have dropped : (f.station == 255 && !isBroadcastable f.kind) = true ↔
      f.station = 255 ∧ ¬(f.kind = 0x13 ∨ f.kind = 0x14 ∨ f.kind = 0x17) := by
    rw [← isBroadcastable_iff]
    simp
  rw [Part.requestAtReady, Part.raise_setPort]
  exact ⟨fun all notKind => if_pos (dropped.2 ⟨all, notKind⟩), fun taken => if_neg fun h => by
    obtain ⟨all, notKind⟩ := dropped.1 h
    exact taken.elim (fun single => single all) notKind⟩

end Peer

/-- A complete GOOD frame at a PEER port. -/
theorem exec_characterArrival_peer (s : State) (p : PortNo) (levels : Levels) (edge sinh : Bool) (f : Frame)
    (completes : s.completesFrame p levels edge f) (peer : (s.part.portSetup p).role = 3) :
    exec (.characterArrival p levels edge sinh) s =
      .next (s.ends ((s.part.tick.setPort p (s.part.reported p)).goodAtPeer p f sinh)) := by
  rw [exec_characterArrival_good s p levels edge sinh f completes, PortSetup.roleOf_peer _ peer]

/-- Settles O34, by what the frame is to the port: a partner BID, a GRANT to its run, a request or another frame. -/
theorem peerFramesGrantYieldOrDrop : Obligations.PeerFramesGrantYieldOrDrop := by
  refine ⟨fun s p levels edge sinh f completes peer => ?_, fun m p => ?_⟩
  · intro own partner x becomes grants counted bid toRun request
    have arrives := exec_characterArrival_peer s p levels edge sinh f completes peer
    have effect (m : Part) (h : (s.part.tick.setPort p x).goodAtPeer p f sinh = m) :
        exec (.characterArrival p levels edge sinh) s = .next (s.ends m) := arrives.trans (by rw [h])
    refine ⟨fun bids => ⟨fun stopping => ?_, fun running => ?_⟩, fun grantsRun => ?_, fun asks => ?_,
      fun notBid notGrant notRequest => ?_⟩
    · exact effect _ ((Part.goodAtPeer_bid s.part.tick p x f sinh bids).trans (if_pos stopping))
    · have goesOn : ¬s.part.tick.engine = .stopping := by simp [running]
      have taken := (Part.goodAtPeer_bid s.part.tick p x f sinh bids).trans (if_neg goesOn)
      obtain ⟨free, yields, keeps, other⟩ := s.part.tick.partnerBid_cases p x f.tag
      exact ⟨fun h => effect _ (taken.trans (free h)), fun bidding lower => effect _ (taken.trans (yields bidding lower)),
        fun bidding higher => effect _ (taken.trans (keeps bidding higher)),
        fun notIdle notOut notBidding => effect _ (taken.trans (other notIdle notOut notBidding))⟩
    · exact effect _ (Part.goodAtPeer_grant s.part.tick p x f sinh grantsRun)
    · have taken := Part.goodAtPeer_request s.part.tick p x f sinh asks
      obtain ⟨busy, unbid, ready⟩ := s.part.tick.requestAtPeer_cases p x f sinh
      refine ⟨fun h => effect _ (taken.trans (busy h)), fun free running notGranted => ?_, fun running out granted => ?_⟩
      · exact effect _ (taken.trans (unbid free (by simp [running]) notGranted))
      · have served := taken.trans (ready (by simp [running]) out granted)
        obtain ⟨dropped, accepted⟩ := s.part.tick.requestAtReady_cases p x f sinh
        exact ⟨fun all notKind => effect _ (served.trans (dropped all notKind)),
          fun h => effect _ (served.trans (accepted h))⟩
    · have other := Part.goodAtPeer_other s.part.tick p x f sinh notBid notGrant notRequest
      exact ⟨fun notAwaiting => effect _ (other.trans (if_neg notAwaiting)),
        fun awaiting => effect _ (other.trans (if_pos awaiting))⟩
  · intro x work suspended idle
    have run : (m.port p).hasRun = true := Option.isSome_iff_ne_none.2 work
    let y : Port := { x with run := { x.run with suspended := false }, activity := .bidding }
    have resumes : m.resumeRun p = m.setPort p (y.entersBidding (m.portSetup p).partnerStation m.eventNo) := by
      have bid := (m.setPort p y).sendBid_eq p (by rw [Part.port_setPort])
      rw [Part.port_setPort, Part.setPort_setPort] at bid
      exact bid
    rw [Part.resumeStep, if_pos ⟨run, suspended, idle⟩, resumes]
    rfl

end Sys2Proof.Machine

/-! PROOF. The timers of a run and of a peer link, and the beginning of a run (R42, R87 to R94, R104, R106, R129 to R131,
R137). -/

namespace Sys2Proof.Machine

/-! ### RETRY_WAIT and SETTLING -/

/-- The end of a run in progress (R105). -/
theorem Part.endRun_eq (m : Part) (p : PortNo) (w : Work) (outcome reason : Byte) (work : (m.port p).run.work = some w) :
    m.endRun p outcome reason = { m.setPort p { m.port p with
        activity := .idle, memStep := .none, run := { (m.port p).run with ending := some ⟨outcome, reason⟩ } } with
      jobs := m.jobs ++ [⟨.runEnding p, m.eventNo⟩] } := by
  have ended := m.endRun_setPort p work outcome reason
  rw [Part.setPort_port_self] at ended
  exact ended

theorem EngineState.working_of_running {e : EngineState} (running : e = .running) : e.working = true := by
  rw [running]
  rfl

theorem EngineState.working_of_stopping {e : EngineState} (stopping : e = .stopping) : e.working = true := by
  rw [stopping]
  rfl

/-- Settles O30: the next attempt in RUNNING, the last failure's ending in STOPPING. -/
theorem retryWaitEndStartsNextAttempt : Obligations.RetryWaitEndStartsNextAttempt := by
  intro s p w released waits work r
  have waiting : (s.part.tick.port p).activity = .retryWait := waits
  refine ⟨fun running role => ?_, fun k stopping last => ?_⟩
  · refine congrArg Host.Outcome.next ((s.onWorking_ends _ released (EngineState.working_of_running running)).trans
      (congrArg s.ends ?_))
    have goesOn : s.part.tick.engine = .running := running
    rw [Part.retryWaitEnds, if_pos waiting, if_pos goesOn,
      s.part.tick.startAttempt_eq p (Port.hasRun_of_work work) role]
    rfl
  · refine congrArg Host.Outcome.next ((s.onWorking_ends _ released (EngineState.working_of_stopping stopping)).trans
      (congrArg s.ends ?_))
    have stops : ¬s.part.tick.engine = .running := by simp [stopping]
    have failed : (s.part.tick.port p).run.lastFailure = some k := last
    rw [Part.retryWaitEnds, if_pos waiting, if_neg stops, Part.endByLastFailure, failed]
    refine (Part.endRun_eq s.part.tick p w _ _ work).trans ?_
    cases k <;> rfl

/-- Settles O31: the end of a settled broadcast, and of one that needs no settling. -/
theorem settledBroadcastEndsOk : Obligations.SettledBroadcastEndsOk := by
  intro s p w released working work r
  refine ⟨fun settling => ?_, fun sent broadcast noDelay => ?_⟩
  · refine congrArg Host.Outcome.next ((s.onWorking_ends _ released working).trans (congrArg s.ends ?_))
    exact (if_pos settling).trans (Part.endRun_eq s.part.tick p w _ _ work)
  · refine congrArg Host.Outcome.next ((s.onWorking_ends _ released working).trans (congrArg s.ends ?_))
    have run : (s.part.tick.port p).run.work = some w := work
    have all : (w.order.station == 255) = true := by simpa using broadcast
    have none : (s.part.tick.portSetup p).turnaround = 0 := noDelay
    refine (if_pos sent).trans ?_
    rw [Part.requestSent, run]
    simp only [if_pos all, if_pos none]
    exact s.part.tick.endRun_setPort p (x := (s.part.tick.port p).endTx) work _ _

/-! ### The bid timer and the grant timer (R131, R137) -/

/-- A bid limit that is spent leaves RETRY_WAIT at once unless a frame is being collected. -/
theorem Port.retryWaitOver_noGrant (x : Port) (turnaround : Byte) (event : Nat) (expired : x.lapsed = some event) :
    x.retryWaitOver turnaround .noGrant event = true ↔ turnaround = 0 ∧ x.receiver.state ≠ .collect := by
  rw [Port.retryWaitOver_iff]
  simp [expired]

/-- A bid that stays unanswered, by the bids spent. -/
theorem Part.bidUnanswered_setPort (m : Part) (p : PortNo) (y : Port) :
    (m.setPort p y).bidUnanswered p =
      if y.peer.bidsSpent + 1 < (m.portSetup p).bidLimit.toNat then
        (m.setPort p { y with peer := { y.peer with bidsSpent := y.peer.bidsSpent + 1, bidPhase := .none } }).sendBid p
          y.run.tag
      else
        (m.setPort p { y with
          peer := { y.peer with bidsSpent := y.peer.bidsSpent + 1, bidPhase := .none } }).attemptFailed p .noGrant := by
  simp only [Part.bidUnanswered, Part.onPort_setPort, Part.port_setPort, Part.setPort_reads]

/-- What reaches a port that transmits leaves its transmission and its receiver machine as they are (R72). -/
theorem exec_whileTransmitting (s : State) (p : PortNo) (released : s.window.resetAsserted = false)
    (working : s.part.engine.working = true) (drives : (s.part.port p).tx ≠ none) :
    exec (.gapExceeded p) s = .next (s.ends s.part.tick) ∧
    ∀ (levels : Levels) (edge sinh : Bool), startConfirmed levels = true →
      (s.part.port p).receiver.state ≠ .inactive →
      exec (.characterArrival p levels edge sinh) s = .next (s.ends (s.part.tick.setPort p
        { s.part.port p with underWay := (s.part.port p).underWay - 1 })) := by
  have driven : (s.part.port p).drven = true := Option.isSome_iff_ne_none.2 drives
  refine ⟨congrArg Host.Outcome.next ((s.onWorking_ends _ released working).trans (congrArg s.ends ?_)),
    fun levels edge sinh confirmed active =>
      congrArg Host.Outcome.next ((s.onWorking_ends _ released working).trans (congrArg s.ends ?_))⟩
  · refine if_neg fun h => ?_
    have released' : (s.part.port p).drven = false := h.2.2
    rw [driven] at released'
    cases released'
  · by_cases none : (s.part.port p).underWay = 0
    · have ignored : s.part.tick.character p levels edge sinh = s.part.tick := if_pos (.inr (.inr none))
      have same : { s.part.port p with underWay := (s.part.port p).underWay - 1 } = s.part.tick.port p := by
        rw [show s.part.tick.port p = s.part.port p from rfl, none]
        exact congrArg (fun u : Nat => { s.part.port p with underWay := u }) none.symm
      rw [ignored, same, Part.setPort_port_self]
    · have taken : ¬((!startConfirmed levels) = true ∨ (s.part.port p).receiver.state = .inactive ∨
          (s.part.port p).underWay = 0) := by simp [confirmed, active, none]
      exact (if_neg taken).trans (if_pos driven)

/-- Settles O32: the bid timer by the bids spent, and what a port that waits to transmit, or transmits, makes of what
reaches it. -/
theorem peerTimersEndBidAndGrant : Obligations.PeerTimersEndBidAndGrant := by
  refine ⟨fun s p w released working bidding waits work => ?_, fun s p released working out granted => ?_,
    fun s p released working waiting silent => ?_, exec_whileTransmitting⟩
  · intro setup r x left becomes
    let y : Port := { s.part.port p with lapsed := some (s.part.eventNo + 1) }
    have event (m : Part) (effect : (s.part.tick.setPort p y).bidUnanswered p = m) :
        exec (.bidTimerExpiry p) s = .next (s.ends m) := by
      refine congrArg Host.Outcome.next ((s.onWorking_ends _ released working).trans (congrArg s.ends ?_))
      rw [← effect]
      exact if_pos ⟨bidding, waits⟩
    have spent := s.part.tick.bidUnanswered_setPort p y
    have last (notLeft : ¬left) : (s.part.tick.setPort p y).bidUnanswered p =
        (s.part.tick.setPort p x).attemptFailed p .noGrant := spent.trans (if_neg notLeft)
    have isOver := x.retryWaitOver_noGrant setup.turnaround (s.part.eventNo + 1) rfl
    refine ⟨fun more => event _ ?_, fun notLeft attempts running => ⟨fun stays => event _ ?_, fun none free peer =>
      event _ ?_⟩, fun notLeft ended => event _ ?_⟩
    · have bid := (s.part.tick.setPort p x).sendBid_eq p (by rw [Part.port_setPort]; exact bidding)
      rw [Part.port_setPort, Part.setPort_setPort] at bid
      exact spent.trans ((if_pos more).trans bid)
    · rw [last notLeft]
      refine Part.attemptFailed_waits s.part.tick p x .noGrant attempts running ?_
      rw [Bool.eq_false_iff]
      exact fun h => stays.elim (fun delay => delay (isOver.1 h).1) (isOver.1 h).2
    · rw [last notLeft]
      exact Part.attemptFailed_starts s.part.tick p (x := x) work .noGrant attempts running (isOver.2 ⟨none, free⟩)
        (.inr peer)
    · rw [last notLeft]
      exact Part.attemptFailed_last s.part.tick p (x := x) work .noGrant ended
  · refine congrArg Host.Outcome.next ((s.onWorking_ends _ released working).trans (congrArg s.ends ?_))
    exact (if_pos ⟨out, granted⟩).trans
      (s.part.tick.onPort_setPort p { s.part.port p with lapsed := some (s.part.eventNo + 1) } _)
  · intro setup x becomes
    have notAwaiting : x.activity ≠ .awaiting := by
      obtain ⟨bidding, -⟩ | sending := waiting
      · rw [show x.activity = .bidding from bidding]
        exact Activity.noConfusion
      · rw [show x.activity = .sending from sending]
        exact Activity.noConfusion
    refine ⟨fun collect quiet => ?_, fun levels edge sinh => ⟨fun k takes active arrive => ?_, fun f completes => ?_⟩⟩
    · have gap := silenceEndsAtEdgeAndAbandonsAtGap s p released working
      exact gap.2.2 silent collect quiet notAwaiting
    · have arrives := exec_characterArrival_taken s p levels edge sinh takes active
      rw [arrive] at arrives
      exact arrives
    · intro y counted request bid toRun yields
      refine ⟨fun master => ?_, fun peer => ?_⟩
      · obtain ⟨unwanted, -⟩ := unwantedFramesAreOnlyCounted.2 s p levels edge sinh f completes
        exact unwanted master notAwaiting
      have arrives := exec_characterArrival_peer s p levels edge sinh f completes peer
      have effect (m : Part) (h : (s.part.tick.setPort p y).goodAtPeer p f sinh = m) :
          exec (.characterArrival p levels edge sinh) s = .next (s.ends m) := arrives.trans (by rw [h])
      obtain ⟨free, yieldsLine, keeps, other⟩ := s.part.tick.partnerBid_cases p y f.tag
      obtain ⟨busy, unbid, -⟩ := s.part.tick.requestAtPeer_cases p y f sinh
      have asks (h : request) : f.asks setup.ownStation y := ⟨h.1, h.2, fun awaits => absurd awaits notAwaiting⟩
      refine ⟨fun grantsRun => effect _ (Part.goodAtPeer_grant s.part.tick p y f sinh grantsRun),
        fun bids ⟨bidding, running, lower⟩ => effect _ ?_, fun bids keepsLine => effect _ ?_,
        fun asked running => effect _ ?_, fun asked stopping => effect _ ?_,
        fun notBid notGrant notRequest => effect _ ?_⟩
      · have goesOn : ¬s.part.tick.engine = .stopping := by simp [running]
        exact (Part.goodAtPeer_bid s.part.tick p y f sinh bids).trans ((if_neg goesOn).trans (yieldsLine bidding lower))
      · refine (Part.goodAtPeer_bid s.part.tick p y f sinh bids).trans ?_
        obtain running | stopping := (EngineState.working_iff _).1 working
        · have goesOn : ¬s.part.tick.engine = .stopping := by simp [running]
          refine (if_neg goesOn).trans ?_
          obtain ⟨bidding, -⟩ | sending := waiting
          · exact keeps bidding fun lower => keepsLine ⟨bidding, running, lower⟩
          · have activity : y.activity = .sending := sending
            exact other (by simp [activity]) (by simp [activity]) (by simp [activity])
        · exact if_pos stopping
      · refine (Part.goodAtPeer_request s.part.tick p y f sinh (asks asked)).trans (unbid ?_ (by simp [running]) ?_)
        · obtain ⟨bidding, -⟩ | sending := waiting
          · rw [show y.activity = .bidding from bidding]
            rfl
          · rw [show y.activity = .sending from sending]
            rfl
        · rintro ⟨out, -⟩
          have out' : (s.part.port p).activity = .grantedOut := out
          rw [out'] at waiting
          simp at waiting
      · exact (Part.goodAtPeer_request s.part.tick p y f sinh (asks asked)).trans (busy (.inr stopping))
      · have foreign := Part.goodAtPeer_other s.part.tick p y f sinh notBid notGrant
          (fun h => notRequest ⟨h.1, h.2.1⟩)
        exact foreign.trans (if_neg notAwaiting)

end Sys2Proof.Machine

/-! PROOF. The head-taking (R42, R86, R87, R90, R92). -/

namespace Sys2Proof.Machine

/-! ### When a port is free -/

/-- The claim lists and the claim unit's inputs hold nothing of the port (log 31). -/
theorem Part.claimFree_iff (m : Part) (p : PortNo) : m.claimFree p = true ↔
    (∀ t, ∀ c ∈ m.claimList t, c.claimant ≠ .port p) ∧
    ∀ i ∈ m.inbox, (∀ t mode first count, i ≠ .arrive p t mode first count) ∧ i ≠ .leave p ∧ i ≠ .expire p ∧
      i ≠ .stored p := by
  have lists : allTables.all (fun t => (m.claimList t).all fun c => c.claimant != .port p) = true ↔
      ∀ t, ∀ c ∈ m.claimList t, c.claimant ≠ .port p := by
    simp [allTables]
  rw [Part.claimFree, Bool.and_eq_true, lists, List.all_eq_true]
  refine and_congr_right fun _ => forall₂_congr fun i _ => ?_
  cases i with
  | arrive q t mode first count =>
    simp only [bne_iff_ne, ne_eq, ClaimInput.arrive.injEq, reduceCtorEq, not_false_eq_true, and_true, not_and]
    exact ⟨fun other _ _ _ _ same => absurd same other, fun h same => h t mode first count same rfl rfl rfl rfl⟩
  | leave q | expire q | stored q | holdPost t wanted post => simp

theorem PortSetup.roleOf_ne_peer_iff (x : PortSetup) : (x.roleOf != .peer) = true ↔ x.role = 0 ∨ x.role = 1 ∨ x.role = 2 := by
  by_cases off : x.role = 0
  · simp [PortSetup.roleOf, off]
  by_cases master : x.role = 1
  · simp [PortSetup.roleOf, master]
  by_cases responder : x.role = 2
  · simp [PortSetup.roleOf, responder]
  · simp only [PortSetup.roleOf, beq_iff_eq, off, master, responder, if_false, or_self, iff_false]
    decide

/-- A port is free by its run, its state and, on a PEER port, its claims (R42). -/
theorem Part.portFree_iff (m : Part) (p : PortNo) : m.portFree p = true ↔
    (m.port p).run.work = none ∧ (m.port p).activity = .idle ∧
      ((m.portSetup p).role = 0 ∨ (m.portSetup p).role = 1 ∨ (m.portSetup p).role = 2 ∨
        ((∀ t, ∀ c ∈ m.claimList t, c.claimant ≠ .port p) ∧
          ∀ i ∈ m.inbox, (∀ t mode first count, i ≠ .arrive p t mode first count) ∧ i ≠ .leave p ∧ i ≠ .expire p ∧
            i ≠ .stored p)) := by
  rw [Part.portFree, Bool.and_eq_true, Bool.and_eq_true, Bool.or_eq_true, PortSetup.roleOf_ne_peer_iff,
    Part.claimFree_iff]
  simp [Port.hasRun, and_assoc, or_assoc]

theorem Part.headStep_eq_none_iff (m : Part) (p : PortNo) :
    m.headStep p = none ↔ m.queue p = [] ∨ m.engine ≠ .running ∨ ¬m.portFree p = true := by
  unfold Part.headStep
  cases queue : m.queue p with
  | nil => simp
  | cons n rest =>
    by_cases taken : m.engine = .running ∧ m.portFree p = true
    · simp [taken]
    · simpa [taken] using not_and_or.1 taken

/-! ### What the beginning of a run leaves -/

theorem Part.sendBid_atPort (m : Part) (p : PortNo) (tag : Byte) : ∃ y, m.sendBid p tag = m.setPort p y := by
  unfold Part.sendBid
  dsimp only
  split
  · exact ⟨_, rfl⟩
  · exact ⟨_, m.setPort_setPort p _ _⟩

/-- The start of an attempt changes its port alone. -/
theorem Part.startAttempt_atPort (m : Part) (p : PortNo) : ∃ y, m.startAttempt p = m.setPort p y := by
  unfold Part.startAttempt
  dsimp only
  split
  · split
    · obtain ⟨y, bid⟩ := Part.sendBid_atPort ((m.onPort p fun x => { x with
          run := { x.run with started := x.run.started + 1, lastFailure := none }, memStep := .none }).onPort p fun x =>
        { x with activity := .bidding, peer := { x.peer with bidsSpent := 0 } }) p (m.port p).run.tag
      exact ⟨y, by rw [bid]; simp only [Part.onPort, Part.setPort_setPort]⟩
    all_goals exact ⟨_, by rw [Part.enterSending_eq, Part.onPort, Part.setPort_setPort]⟩
  · exact ⟨_, (m.setPort_port_self p).symm⟩

/-- The port that begins a run of slot `n` (R86, R87). -/
def Part.runBegun (m : Part) (p : PortNo) (n : SlotNo) : Port :=
  { m.port p with
    run := { Run.initial with
      work := some ⟨n, (m.slot n).order⟩, tag := (m.port p).tagCounter, allowed := (m.slot n).order.retries.toNat + 1 }
    tagCounter := (m.port p).tagCounter + 1, activity := .preparing, memStep := .none }

theorem Part.beginRun_eq (m : Part) (p : PortNo) (n : SlotNo) :
    let k := m.setSlot n { m.slot n with state := .active }
    let o := (m.slot n).order
    m.beginRun p n =
      if isStore o.kind then
        (k.setPort p (m.runBegun p n)).askClaim p (tableNo o.localTable) .shared o.localIndex.toNat o.count.toNat
      else (k.setPort p { m.runBegun p n with
        txBuffer := frameProper o.station o.kind (m.port p).tagCounter (requestBody o []) }).startAttempt p := by
  unfold Part.beginRun
  simp only [Part.formRequest, Part.onPort, Part.port_setPort, Part.setPort_setPort]
  rfl

/-- The beginning of a run changes the slot, its port and, for a store, the claim unit's inputs alone. -/
theorem Part.beginRun_leaves (m : Part) (p : PortNo) (n : SlotNo) :
    (∀ q, (m.beginRun p n).queue q = m.queue q) ∧ (m.beginRun p n).slot n = { m.slot n with state := .active } ∧
    (∀ k, k ≠ n → (m.beginRun p n).slot k = m.slot k) ∧ ∀ q, q ≠ p → (m.beginRun p n).port q = m.port q := by
  have shape : ∃ y inbox, m.beginRun p n =
      { (m.setSlot n { m.slot n with state := .active }).setPort p y with inbox := inbox } := by
    rw [Part.beginRun_eq]
    split
    · exact ⟨_, _, rfl⟩
    · obtain ⟨y, started⟩ := Part.startAttempt_atPort ((m.setSlot n { m.slot n with state := .active }).setPort p
        { m.runBegun p n with
          txBuffer := frameProper (m.slot n).order.station (m.slot n).order.kind (m.port p).tagCounter
            (requestBody (m.slot n).order []) }) p
      exact ⟨y, m.inbox, by rw [started, Part.setPort_setPort]; rfl⟩
  obtain ⟨y, inbox, same⟩ := shape
  rw [same]
  exact ⟨fun q => rfl, m.slot_setSlot n _, fun k other => m.slot_setSlot_of_ne n k _ (Ne.symm other),
    fun q other => Part.port_setPort_of_ne _ p q y (Ne.symm other)⟩

/-- The body of a request that carries no local data (Table 5-3). -/
theorem requestBody_nil (o : Order) (notWords : o.kind ≠ 0x13) (notBits : o.kind ≠ 0x14) : requestBody o [] =
    if o.kind = 0x11 ∨ o.kind = 0x12 then [o.remoteTable] ++ halfBytes o.remoteIndex ++ halfBytes o.count
    else if o.kind = 0x15 then [o.remoteTable] ++ halfBytes o.remoteIndex ++ halfBytes o.andMask ++ halfBytes o.orMask
    else [] := by
  have notStore : isStore o.kind = false := by
    simp only [isStore, kindStoreWords, kindStoreBits, beq_eq_false_iff_ne.2 notWords, beq_eq_false_iff_ne.2 notBits,
      Bool.or_self]
  simp only [requestBody, isFetch, notStore, kindFetchWords, kindFetchBits, kindModifyWord, Bool.or_eq_true, beq_iff_eq,
    Bool.false_eq_true, if_false]

/-- Settles O33, by whether the order is a store. -/
theorem headTakingBeginsRun : Obligations.HeadTakingBeginsRun := by
  unfold Obligations.HeadTakingBeginsRun
  intro free
  refine ⟨fun m p => ⟨m.portFree_iff p, ?_⟩, fun m p n rest running isFree queue => ?_⟩
  · rw [Part.headStep_eq_none_iff, Part.portFree_iff]
  · intro o tag x half body
    have taken : m.headStep p = some ((m.setQueue p rest).beginRun p n) := by
      rw [Part.headStep, queue]
      exact if_pos ⟨running, (m.portFree_iff p).2 isFree⟩
    obtain ⟨queues, slot, slots, ports⟩ := (m.setQueue p rest).beginRun_leaves p n
    refine ⟨_, taken, ?_, fun q other => ?_, slot, slots, ports, fun store => ?_, fun notWords notBits role => ?_⟩
    · rw [queues, Part.queue_setQueue]
    · rw [queues, Part.queue_setQueue_of_ne m p q rest (Ne.symm other)]
    · have stores : isStore ((m.setQueue p rest).slot n).order.kind = true := by
        simpa [isStore, kindStoreWords, kindStoreBits] using store
      rw [Part.beginRun_eq, if_pos stores]
      exact ⟨Part.port_setPort _ p _, rfl⟩
    · have notStore : ¬isStore ((m.setQueue p rest).slot n).order.kind = true := by
        simpa [isStore, kindStoreWords, kindStoreBits] using ⟨notWords, notBits⟩
      have noData : requestBody ((m.setQueue p rest).slot n).order [] = body := requestBody_nil o notWords notBits
      have work : ((m.setQueue p rest).runBegun p n).run.work = some ⟨n, o⟩ := rfl
      rw [Part.beginRun_eq, if_neg notStore,
        Part.startAttempt_eq _ p (by rw [Part.port_setPort]; exact Port.hasRun_of_work (x := Part.runBegun _ p n) work)
          (by simpa using role), Part.port_setPort, Part.setPort_setPort, Part.port_setPort, noData]
      exact ⟨rfl, rfl⟩

end Sys2Proof.Machine

/-! PROOF. Claims: what a conflict is, the arrival of a claim, and the end of a wait at its limit (R51 to R57). -/

namespace Sys2Proof.Machine

/-! ### Conflicts (R53) -/

/-- Two ranges meet exactly when they share an element. -/
theorem rangesMeet_iff (a n b k : Nat) (one : 1 ≤ n) (one' : 1 ≤ k) :
    rangesMeet a (a + n) b (b + k) = true ↔ ∃ e, a ≤ e ∧ e < a + n ∧ b ≤ e ∧ e < b + k := by
  simp only [rangesMeet, Bool.and_eq_true, decide_eq_true_eq]
  constructor
  · rintro ⟨left, right⟩
    exact ⟨max a b, by omega⟩
  · rintro ⟨e, meets⟩
    omega

/-- Two ranges rounded out to whole bytes meet exactly when elements of the two lie in one byte. -/
theorem byteRangesMeet_iff (a n b k : Nat) (one : 1 ≤ n) (one' : 1 ≤ k) :
    rangesMeet (a / 8) ((a + n - 1) / 8 + 1) (b / 8) ((b + k - 1) / 8 + 1) = true ↔
      ∃ e f, a ≤ e ∧ e < a + n ∧ b ≤ f ∧ f < b + k ∧ e / 8 = f / 8 := by
  simp only [rangesMeet, Bool.and_eq_true, decide_eq_true_eq]
  constructor
  · rintro ⟨left, right⟩
    rcases Nat.le_total (a / 8) (b / 8) with order | order
    · exact ⟨max a (8 * (b / 8)), b, by omega⟩
    · exact ⟨a, max b (8 * (a / 8)), by omega⟩
  · rintro ⟨e, f, meets⟩
    omega

/-- A conflict, with the overlap of the ranges said as `meet`. -/
theorem conflict_iff (bits : Bool) (a b : Claim) (meet : Prop) (overlaps : claimsOverlap bits a b = true ↔ meet) :
    conflict bits a b = true ↔
      a.mode = .hold ∨ b.mode = .hold ∨ (meet ∧ (a.mode = .exclusive ∨ b.mode = .exclusive)) := by
  simp [conflict, overlaps, or_assoc]

/-- A claim at the tail is granted exactly when it conflicts with no claim ahead of it. -/
theorem grantable_tail_iff (bits : Bool) (l : List Claim) (c : Claim) :
    grantable bits l c [] = true ↔ ∀ d ∈ l, conflict bits c d = false := by
  simp [grantable]

/-- Settles O41: an arrival by the grant rule at the tail of the list; a conflict by the meeting of two ranges, of elements
and of whole bytes. -/
theorem conflictFollowsRanges : Obligations.ConflictFollowsRanges := by
  refine ⟨fun m base p t mode first count rest input ready => ⟨fun free => ?_, fun taken => ⟨?_, ?_⟩⟩,
    fun a b one one' => ⟨?_, ?_⟩⟩
  · rw [m.claimStep_arrive base p t mode first count rest input ready]
    exact congrArg some (if_pos ((grantable_tail_iff _ _ _).2 free))
  · rw [m.claimStep_arrive base p t mode first count rest input ready]
    exact congrArg some (if_neg (mt (grantable_tail_iff _ _ _).1 taken))
  · refine (Part.waitLimitRuns_iff _ p).2 ⟨t, ⟨.port p, mode, first, count, false⟩, ?_, rfl, rfl⟩
    have list := Part.claimList_setClaimList { m with inbox := rest } t
      (m.claimList t ++ [⟨.port p, mode, first, count, false⟩])
    exact list ▸ List.mem_append_right _ (List.mem_singleton_self _)
  · exact conflict_iff false a b _ (rangesMeet_iff _ _ _ _ one one')
  · exact conflict_iff true a b _ (byteRangesMeet_iff _ _ _ _ one one')

/-! ### The end of a wait (R54, R56, R57) -/

theorem Part.leaveGrantsHold_iff (m : Part) (p : PortNo) (t : TableNo) (table : m.claimTable p = some t) :
    m.leaveGrantsHold p = true ↔ becomesGranted ((m.claimList t).filter fun c => c.claimant != .port p)
      ((m.claimLeaves t (.port p)).claimList t) .hold := by
  have after : (m.claimLeaves t (.port p)).claimList t =
      afterLeave (m.tableEntry t).isBits (m.claimList t) (.port p) := by
    obtain ⟨-, -, -, rest⟩ := Part.tellAllGranted_spec t
      (grantedByLeave (m.tableEntry t).isBits (m.claimList t) (.port p))
      (m.setClaimList t (afterLeave (m.tableEntry t).isBits (m.claimList t) (.port p)))
    exact (congrArg (fun x : Part => x.claimList t) rest).trans (m.claimList_setClaimList t _)
  rw [after, ← mem_grantedByLeave]
  simp [Part.leaveGrantsHold, table]

/-- A port's claim leaves the list it stands in, and a hold that this grants has its table record entry queued (R54, R60). -/
theorem Part.portLeaves_eq (m : Part) (base : Word) (p : PortNo) (t : TableNo) (table : m.claimTable p = some t) :
    m.portLeaves base p = if m.leaveGrantsHold p then (m.claimLeaves t (.port p)).queueTableRecord base t
      else m.claimLeaves t (.port p) := by
  unfold Part.portLeaves
  rw [table]

/-- With the claim unit free and room for an entry, a wait-limit expiry is taken at once. -/
theorem Part.claimStep_expire (m : Part) (base : Word) (p : PortNo) (rest : List ClaimInput)
    (input : m.inbox = .expire p :: rest) (ready : m.waits .claimUnit = false) (room : m.hasRoom = true) :
    m.claimStep base = some (({ m with inbox := rest } : Part).claimExpires base p) := by
  simp [Part.claimStep, input, ready, room, Part.doInput]

/-- The claim unit comes first of the internal work. -/
theorem Part.finish_of_claimStep (m m' : Part) (base : Word) (working : m.engine.working = true)
    (step : m.claimStep base = some m') : Part.finish base m = (Part.settle base 4095 m').grantBus := by
  have first : m.settleStep base = some m' := by simp [Part.settleStep, working, Part.workingStep, step, orElse]
  unfold Part.finish
  rw [show Config.settleFuel = 4095 + 1 from rfl, Part.settle, first]

/-- An event that hands the claim unit, free and with room for an entry, the expiry of a claim that waits: it is taken at
once, and the internal work goes on from the end of the port's transaction. -/
theorem Part.finish_of_expiry (m : Part) (base : Word) (p : PortNo) (working : m.engine.working = true)
    (free : m.inbox = []) (ready : m.waits .claimUnit = false) (room : m.hasRoom = true)
    (waits : m.waitLimitRuns p = true) :
    Part.finish base (m.claimLimitPassed p) =
      (Part.settle base 4095 ((m.portLeaves base p).claimTimedOut p)).grantBus := by
  have told : m.claimLimitPassed p = { m with inbox := [.expire p] } := by
    simp [Part.claimLimitPassed, waits, Part.tellClaimUnit, free]
  have emptied : ({ m with inbox := [] } : Part) = m := by rw [← free]
  have taken := Part.claimStep_expire { m with inbox := [.expire p] } base p [] rfl ready room
  rw [told]
  refine Part.finish_of_claimStep _ _ base working (taken.trans (congrArg some ?_))
  exact (congrArg (fun k : Part => k.claimExpires base p) emptied).trans (if_pos waits)

theorem exec_claimWaitLimitExpiry (s : State) (p : PortNo) (released : s.window.resetAsserted = false)
    (working : s.part.engine.working = true) :
    exec (.claimWaitLimitExpiry p) s = .next (s.ends (s.part.tick.claimLimitPassed p)) :=
  congrArg Host.Outcome.next (s.onWorking_ends _ released working)

/-- Settles O36: the expiry reaches the claim unit; taken, it makes the port's claim leave its list and ends the port's
transaction. -/
theorem claimWaitLimitEndsTransaction : Obligations.ClaimWaitLimitEndsTransaction := by
  refine ⟨fun s p released working => ⟨fun waits => ?_, fun gone => ?_⟩,
    fun s p t released working free ready room waits table => ?_⟩
  · rw [exec_claimWaitLimitExpiry s p released working]
    exact congrArg (fun m => Host.Outcome.next (s.ends m)) (if_pos ((Part.waitLimitRuns_iff s.part p).2 waits))
  · rw [exec_claimWaitLimitExpiry s p released working]
    exact congrArg (fun m => Host.Outcome.next (s.ends m)) (if_neg (mt (Part.waitLimitRuns_iff s.part p).1 gone))
  intro bits left held
  let before := s.part.tick
  let after := before.claimLeaves t (.port p)
  have runs : exec (.claimWaitLimitExpiry p) s = .next { s with
      part := (Part.settle s.window.base 4095 ((before.portLeaves s.window.base p).claimTimedOut p)).grantBus } := by
    rw [exec_claimWaitLimitExpiry s p released working, State.ends,
      before.finish_of_expiry s.window.base p working free ready room waits]
  obtain ⟨rule, lists, granted, hold, noHold, same⟩ := before.claimLeaves_spec t (.port p)
  have sameStart (q : PortNo) : (before.claimGranted q).port q = (s.part.claimGranted q).port q :=
    Part.claimGranted_local s.part before q rfl rfl
  have queued : after.xq = s.part.xq := (congrArg Part.xq same).trans rfl
  have holdGrant := before.leaveGrantsHold_iff p t table
  have leaves := before.portLeaves_eq s.window.base p t table
  have fields (k : Part) (isAfter : k = { after with xq := k.xq }) :
      k.slots = s.part.slots ∧ k.causes = s.part.causes ∧ k.jobs = s.part.jobs ∧
        k.eventNo = s.part.eventNo + 1 ∧ k.sweep = s.part.sweep := by
    rw [isAfter, show after = _ from same]
    exact ⟨rfl, rfl, rfl, rfl, rfl⟩
  refine ⟨before.portLeaves s.window.base p, _, runs, ?_⟩
  have timesOut := (before.portLeaves s.window.base p).claimTimedOut_timesOut p
  by_cases grants : before.leaveGrantsHold p = true
  · rw [if_pos grants] at leaves
    have isHeld : after.table t = held := hold (holdGrant.1 grants)
    obtain ⟨slots, causes, jobs, event, sweep⟩ := fields (before.portLeaves s.window.base p) (by rw [leaves]; rfl)
    refine ⟨?_, slots, causes, jobs, event, sweep, timesOut⟩
    rw [leaves]
    refine ⟨rule, fun u other => (lists u other).1, fun _ => ⟨isHeld, ?_⟩,
      fun no => absurd (holdGrant.1 grants) no, fun u other => (lists u other).2,
      fun q grant => ((granted q).1 grant).trans (sameStart q),
      fun q => (granted q).2⟩
    show after.xq ++ [tableRecordEntry s.window.base t (after.table t)] = _
    rw [isHeld, queued]
    rfl
  · rw [if_neg grants] at leaves
    have noGrant := mt holdGrant.2 grants
    obtain ⟨slots, causes, jobs, event, sweep⟩ := fields (before.portLeaves s.window.base p) (by rw [leaves])
    refine ⟨?_, slots, causes, jobs, event, sweep, timesOut⟩
    rw [leaves]
    exact ⟨rule, fun u other => (lists u other).1, fun yes => absurd yes noGrant,
      fun _ => ⟨noHold noGrant, queued⟩, fun u other => (lists u other).2,
      fun q grant => ((granted q).1 grant).trans (sameStart q), fun q => (granted q).2⟩

end Sys2Proof.Machine

/-! PROOF. The slots: what a completion leaves, the checks at the take of an order, and the expiry of a period timer
(R7 to R11, R20, R21, R30, R31, R35). -/

namespace Sys2Proof.Machine

/-! ### Table 1-8 -/

/-- The rows of Table 1-8 that a mark or a stop decides. -/
theorem nextState_of_withdrawMark (x : Slot) (c : Completion) (mark : x.withdrawMark = true) :
    nextState x c = .withdrawn := by simp [nextState, mark]

theorem nextState_of_stopped (x : Slot) (c : Completion) (mark : x.withdrawMark = false) (stopped : c.outcome = 0x17) :
    nextState x c = .failed := by simp [nextState, mark, stopped, outcomeStopped]

theorem nextState_of_brokenMark (x : Slot) (c : Completion) (mark : x.withdrawMark = false)
    (went : c.outcome ≠ 0x17) (broken : x.brokenMark = true) :
    nextState x c = if c.outcome = 0 then .done else .failed := by
  have goes : (c.outcome == outcomeStopped) = false := beq_eq_false_iff_ne.2 went
  simp only [nextState, mark, goes, broken, Bool.false_eq_true, if_false, if_true, beq_iff_eq, outcomeOk]

/-- The rows that only the break of a chain and the order's class decide. -/
theorem nextState_of_noMark (x : Slot) (c : Completion) (mark : x.withdrawMark = false)
    (went : c.outcome ≠ 0x17) (broken : x.brokenMark = false) :
    (c.chain = .predecessorLeft → nextState x c = .failed) ∧
    (c.chain = .predecessorFailed → nextState x c = if x.repeating then .taken else .failed) ∧
    (c.chain = .none → x.repeating = true → nextState x c = if x.owed then .queued else .taken) ∧
    (c.chain = .none → x.repeating = false → nextState x c = if c.outcome = 0 then .done else .failed) := by
  have goes : (c.outcome == outcomeStopped) = false := beq_eq_false_iff_ne.2 went
  simp only [nextState, mark, goes, broken, Bool.false_eq_true, if_false]
  refine ⟨fun chain => ?_, fun chain => ?_, fun chain class_ => ?_, fun chain class_ => ?_⟩
  · simp [chain]
  · simp [chain]
  · simp [chain, class_]
  · simp [chain, class_, outcomeOk]

/-- When a completion clears the broken mark (R37). -/
theorem clearsBroken_iff (x : Slot) (c : Completion) :
    clearsBroken x c = true ↔ x.withdrawMark = true ∨ c.outcome ≠ 0x17 := by
  simp [clearsBroken, outcomeStopped]

/-- Settles O39: the rows of Table 1-8 one by one; the period timer goes on in a part-owned slot, and the broken mark
stays only in a completion STOPPED. -/
theorem completionFollowsTable : Obligations.CompletionFollowsTable := by
  intro x c count y
  have timer : y.periodTimer = (x.periodTimer && y.state.partOwned) := rfl
  have broken : y.brokenMark = (x.brokenMark && !clearsBroken x c) := rfl
  refine ⟨rfl, rfl, rfl, rfl, rfl, rfl, rfl, rfl, rfl, fun host => ?_, fun own => ?_, fun clears => ?_,
    fun mark stopped => ?_, nextState_of_withdrawMark x c, nextState_of_stopped x c, nextState_of_brokenMark x c,
    nextState_of_noMark x c⟩
  · rw [timer, host, Bool.and_false]
  · rw [timer, own, Bool.and_true]
  · rw [broken, (clearsBroken_iff x c).2 clears, Bool.not_true, Bool.and_false]
  · have keeps : clearsBroken x c = false := by simp [clearsBroken, outcomeStopped, mark, stopped]
    rw [broken, keeps, Bool.not_false, Bool.and_true]

/-! ### Checks at take (Table 1-5) -/

/-- The checks of Table 1-5 ahead of the follows check. -/
def Part.earlierCheck (m : Part) (o : Order) : Option Byte :=
  if 3 < o.port.toNat ∨ (m.portSetup o.portNo).roleOf = .off ∨ (m.portSetup o.portNo).roleOf = .responder then
    some badPort
  else if !isRequestCode o.kind then some badKind
  else if stationFails (m.portSetup o.portNo) o then some badStation
  else if countFails o then some badCount
  else if localFails m.setup.tables o then some badLocal
  else if remoteFails o then some badRemote
  else if 7 < o.retries.toNat then some badRetries
  else none

/-- The follows, period and loop checks. -/
def Part.followsCheck (m : Part) (n : SlotNo) (o : Order) : Option Byte :=
  if followsFails n o then some badFollows
  else if o.isFollower && o.period != 0 then some followsWithPeriod
  else if loopFails m n o then some chainLoop
  else none

theorem Part.orderCheck_eq (m : Part) (n : SlotNo) (o : Order) :
    m.orderCheck n o = (m.earlierCheck o).or (m.followsCheck n o) := by
  unfold Part.orderCheck Part.earlierCheck
  simp only
  iterate 7
    split
    · rfl
  rfl

/-- An order that follows no other passes the follows, period and loop checks. -/
theorem Part.followsCheck_of_plain (m : Part) (n : SlotNo) (o : Order) (plain : o.follows = 0xFF) :
    m.followsCheck n o = none := by
  simp [Part.followsCheck, followsFails, loopFails, Order.isFollower, plain]

theorem Order.isFollower_iff (o : Order) : o.isFollower = true ↔ o.follows ≠ 0xFF := bne_iff_ne

/-- A follows field names an acceptable slot or not (R10). -/
theorem followsFails_iff (n : SlotNo) (o : Order) (follower : o.follows ≠ 0xFF) :
    followsFails n o = true ↔ 15 < o.follows.toNat ∨ o.follows.toNat = n.val := by
  have slot : o.follows = BitVec.ofNat 8 n.val ↔ o.follows.toNat = n.val := by
    rw [← BitVec.toNat_inj, BitVec.toNat_ofNat, Nat.mod_eq_of_lt (by omega)]
  simp [followsFails, (Order.isFollower_iff o).2 follower, slot]

theorem ne_noSlot_of_le (b : Byte) (low : b.toNat ≤ 15) : b ≠ 0xFF := by
  rintro rfl
  exact absurd low (by decide)

/-- The walk of the loop check from the slot that an order names (R11). -/
theorem loopFails_iff (m : Part) (n : SlotNo) (o : Order) (follower : o.follows ≠ 0xFF) :
    loopFails m n o = true ↔ ∃ (walk : Nat → SlotNo) (k : Nat), k ≤ 15 ∧
      walk 0 = Fin.ofNat 16 o.follows.toNat ∧ walk k = n ∧
      ∀ i, i < k → (m.slot (walk i)).state.partOwned = true ∧ (m.slot (walk i)).order.follows ≠ 0xFF ∧
        walk (i + 1) = Fin.ofNat 16 (m.slot (walk i)).order.follows.toNat := by
  rw [loopFails, (Order.isFollower_iff o).2 follower, Bool.true_and, loopFrom_iff]
  simp only [Nat.lt_succ_iff]

/-- The follows check, the period check and the loop check of a follower (R10, R11). -/
theorem Part.followsCheck_of_bad (m : Part) (n : SlotNo) (o : Order) (fails : followsFails n o = true) :
    m.followsCheck n o = some 0x28 := if_pos fails

theorem Part.followsCheck_of_period (m : Part) (n : SlotNo) (o : Order) (named : followsFails n o = false)
    (follower : o.follows ≠ 0xFF) (period : o.period ≠ 0) : m.followsCheck n o = some 0x29 := by
  have both : (o.isFollower && o.period != 0) = true :=
    Bool.and_eq_true_iff.2 ⟨(Order.isFollower_iff o).2 follower, bne_iff_ne.2 period⟩
  rw [Part.followsCheck, named, if_neg Bool.false_ne_true, if_pos both, followsWithPeriod]

theorem Part.followsCheck_of_noPeriod (m : Part) (n : SlotNo) (o : Order) (named : followsFails n o = false)
    (period : o.period = 0) : m.followsCheck n o = if loopFails m n o then some 0x2A else none := by
  simp [Part.followsCheck, named, period, chainLoop]

/-! #### The checks ahead of the follows check, one by one -/

theorem PortSetup.roleOf_cannotSend_iff (s : PortSetup) :
    (s.roleOf = .off ∨ s.roleOf = .responder) ↔ ¬(s.roleOf = .master ∨ s.roleOf = .peer) := by
  cases s.roleOf <;> simp

theorem stationFails_iff (s : PortSetup) (o : Order) (role : s.roleOf = .master ∨ s.roleOf = .peer) :
    stationFails s o = true ↔
      ¬((o.station = 255 → (o.kind = 0x13 ∨ o.kind = 0x14 ∨ o.kind = 0x17) ∧ s.roleOf = .master) ∧
        (s.roleOf = .peer → o.station = s.partnerStation)) := by
  have broadcastable := isBroadcastable_iff o.kind
  have passes : stationFails s o = false ↔
      (o.station = 255 → isBroadcastable o.kind = true ∧ s.roleOf = .master) ∧
        (s.roleOf = .peer → o.station = s.partnerStation) := by
    rcases role with role | role <;> simp [stationFails, role]
  rw [← broadcastable, ← passes, Bool.not_eq_false]

/-- The kinds that move data through a local table, and those of them that move bits. -/
theorem movesLocally_iff (k : Byte) :
    (isFetch k || isStore k) = true ↔ k = 0x11 ∨ k = 0x13 ∨ (k = 0x12 ∨ k = 0x14) := by
  simp only [isFetch, isStore, kindFetchWords, kindFetchBits, kindStoreWords, kindStoreBits, Bool.or_eq_true, beq_iff_eq]
  constructor
  · rintro ((h | h) | (h | h)) <;> simp [h]
  · rintro (h | h | h | h) <;> simp [h]

theorem isBitKind_iff (k : Byte) : isBitKind k = true ↔ k = 0x12 ∨ k = 0x14 := by
  simp [isBitKind, kindFetchBits, kindStoreBits]

theorem countFails_iff (o : Order) :
    countFails o = true ↔ ¬((o.kind = 0x11 ∨ o.kind = 0x13 ∨ (o.kind = 0x12 ∨ o.kind = 0x14)) → 1 ≤ o.count.toNat ∧
      ((o.kind = 0x12 ∨ o.kind = 0x14) → o.count.toNat ≤ 960) ∧
      (¬(o.kind = 0x12 ∨ o.kind = 0x14) → o.count.toNat ≤ 120)) := by
  rw [← movesLocally_iff, ← isBitKind_iff]
  cases bits : isBitKind o.kind <;> simp [countFails, bits, Nat.one_le_iff_ne_zero, or_iff_not_imp_left]

theorem localFails_iff (m : Part) (o : Order) :
    localFails m.setup.tables o = true ↔ ¬((o.kind = 0x11 ∨ o.kind = 0x13 ∨ (o.kind = 0x12 ∨ o.kind = 0x14)) →
      o.localTable.toNat ≤ 7 ∧ (m.tableEntry (Fin.ofNat 8 o.localTable.toNat)).present.getLsbD 0 = true ∧
      ((m.tableEntry (Fin.ofNat 8 o.localTable.toNat)).kind = 1 ↔ (o.kind = 0x12 ∨ o.kind = 0x14)) ∧
      o.localIndex.toNat + o.count.toNat ≤ (m.tableEntry (Fin.ofNat 8 o.localTable.toNat)).length.toNat) := by
  have entry : m.setup.tables.get (tableNo o.localTable) = m.tableEntry (Fin.ofNat 8 o.localTable.toNat) := rfl
  have kind : ((m.tableEntry (Fin.ofNat 8 o.localTable.toNat)).isBits != isBitKind o.kind) = true ↔
      ¬((m.tableEntry (Fin.ofNat 8 o.localTable.toNat)).kind = 1 ↔ isBitKind o.kind = true) := by
    rw [bne_iff_ne, ne_eq, Bool.eq_iff_iff, TableEntry.isBits, beq_iff_eq]
  rw [← movesLocally_iff, ← isBitKind_iff, localFails, Bool.and_eq_true, Classical.not_imp]
  refine and_congr_right fun _ => ?_
  by_cases low : o.localTable.toNat < 8
  · have low' : o.localTable.toNat ≤ 7 := by omega
    simp only [low, if_true, entry, Bool.or_eq_true, kind, decide_eq_true_eq, TableEntry.isPresent, Bool.not_eq_true',
      low', true_and, not_and_or, Nat.not_le, Bool.not_eq_true, or_assoc]
  · have high : ¬o.localTable.toNat ≤ 7 := by omega
    simp [low, high]

theorem remoteFails_iff (o : Order) :
    remoteFails o = true ↔ ¬((o.kind = 0x11 ∨ o.kind = 0x13 ∨ (o.kind = 0x12 ∨ o.kind = 0x14)) ∨ o.kind = 0x15 →
      o.remoteTable.toNat ≤ 7) := by
  rw [← movesLocally_iff]
  simp [remoteFails, namesTable, kindModifyWord]

/-- Settles O40: the checks ahead of the follows check, each as the data sheet says it, and the rest of Table 1-5 for an
order that passes them. -/
theorem followsAndPeriodChecks : Obligations.FollowsAndPeriodChecks := by
  refine ⟨fun m n o passes => ?_, fun m n o => ?_⟩
  · have ahead : m.earlierCheck o = none := by
      rw [Part.orderCheck_eq, Part.followsCheck_of_plain _ _ _ rfl, Option.or_none] at passes
      exact passes
    have rest : m.orderCheck n o = m.followsCheck n o := by rw [Part.orderCheck_eq, ahead, Option.none_or]
    rw [rest]
    refine ⟨m.followsCheck_of_plain n o, fun follower bad => ?_, fun low other => ?_⟩
    · exact m.followsCheck_of_bad n o ((followsFails_iff n o follower).2 bad)
    have follower := ne_noSlot_of_le o.follows low
    have named : followsFails n o = false :=
      Bool.eq_false_iff.2 (mt (followsFails_iff n o follower).1 (by omega))
    refine ⟨m.followsCheck_of_period n o named follower, fun period => ?_⟩
    rw [m.followsCheck_of_noPeriod n o named period, ← loopFails_iff m n o follower]
    cases loopFails m n o <;> simp
  · intro s e code bits locally portOk kindOk stationOk countOk tableOk remoteOk
    have port : (3 < o.port.toNat ∨ (m.portSetup o.portNo).roleOf = .off ∨ (m.portSetup o.portNo).roleOf = .responder) ↔
        ¬portOk := by
      rw [PortSetup.roleOf_cannotSend_iff, not_and_or, Nat.not_le]
      rfl
    have kind : (!isRequestCode o.kind) = true ↔ ¬kindOk := by
      rw [Bool.not_eq_true', ← Bool.not_eq_true, isRequestCode_iff]
    have station (role : portOk) : stationFails (m.portSetup o.portNo) o = true ↔ ¬stationOk :=
      stationFails_iff s o role.2
    have count : countFails o = true ↔ ¬countOk := countFails_iff o
    have table : localFails m.setup.tables o = true ↔ ¬tableOk := localFails_iff m o
    have remote : remoteFails o = true ↔ ¬remoteOk := remoteFails_iff o
    have steps : code = (m.earlierCheck o).or (m.followsCheck n o) := m.orderCheck_eq n o
    clear_value portOk kindOk stationOk countOk tableOk remoteOk
    rw [steps, Part.earlierCheck]
    refine ⟨fun bad => ?_, fun a bad => ?_, fun a b bad => ?_, fun a b c bad => ?_, fun a b c d bad => ?_,
      fun a b c d f bad => ?_, fun a b c d f g => ⟨fun many => ?_, fun few plain => ?_⟩⟩
    · simp [port, bad, badPort]
    all_goals rw [if_neg (mt port.1 (not_not.2 a))]
    · simp [kind.2 bad, badKind]
    all_goals rw [if_neg (mt kind.1 (not_not.2 b))]
    · simp [(station a).2 bad, badStation]
    all_goals rw [if_neg (mt (station a).1 (not_not.2 c))]
    · simp [count.2 bad, badCount]
    all_goals rw [if_neg (mt count.1 (not_not.2 d))]
    · simp [table.2 bad, badLocal]
    all_goals rw [if_neg (mt table.1 (not_not.2 f))]
    · simp [remote.2 bad, badRemote]
    all_goals rw [if_neg (mt remote.1 (not_not.2 g))]
    · simp [many, badRetries]
    · rw [if_neg (by omega), Option.none_or]
      exact m.followsCheck_of_plain n o plain

/-! ### Period expiries (R30, R31, R35, R39) -/

/-- An event that hands the slot manager, with nothing else to do, the expiry of a period timer: it is taken at once. -/
theorem Part.finish_of_periodExpired (m : Part) (base : Word) (n : SlotNo) (since : Nat)
    (working : m.engine.working = true) (settled : m.settled base) (noTree : m.tree = []) :
    Part.finish base { m with jobs := m.jobs ++ [⟨.expiry n, since⟩] } =
      (Part.settle base 4095 (m.takeExpiry n)).grantBus := by
  obtain ⟨claims, tree, resumed, heads, job, -, -⟩ := (m.settled_working_iff base working).1 settled
  let told : Part := m.withJobs m.eventNo (m.jobs ++ [⟨.expiry n, since⟩])
  have claims' := m.claimStep_withJobs base m.eventNo (m.jobs ++ [⟨.expiry n, since⟩]) claims
  have tree' := m.treeStep_withJobs base m.eventNo (m.jobs ++ [⟨.expiry n, since⟩]) tree
  have resumed' p := m.resumeStep_withJobs m.eventNo (m.jobs ++ [⟨.expiry n, since⟩]) p (resumed p)
  have heads' p := m.headStep_withJobs m.eventNo (m.jobs ++ [⟨.expiry n, since⟩]) p (heads p)
  have taken : told.jobStep base = some (m.takeExpiry n) := m.jobStep_expiry base n since noTree job
  have step : told.settleStep base = some (m.takeExpiry n) := by
    have works : told.engine.working = true := working
    simp only [Part.settleStep, works, if_true, Part.workingStep, told, claims', tree', resumed', heads', orElse]
    rw [show (m.withJobs m.eventNo (m.jobs ++ [⟨.expiry n, since⟩])).jobStep base = _ from taken]
  show (Part.settle base (4095 + 1) told).grantBus = _
  rw [Part.settle, step]

/-- With no internal work ready, an event without effect ends at once, also with a job added behind a delivery tree. -/
theorem Part.settled_tick (m : Part) (base : Word) (working : m.engine.working = true) (settled : m.settled base) :
    m.tick.settled base := m.settled_withJobs base (m.eventNo + 1) m.jobs working (Or.inl rfl) settled

/-- Settles O35: the expiry reaches the slot manager, which takes it at once unless a delivery tree waits for room. -/
theorem periodExpiryTriggersUnlessSuppressed : Obligations.PeriodExpiryTriggersUnlessSuppressed := by
  intro s n released held runs becomes
  have event (m : Part) (effect : Part.whileWorking (fun m => m.periodExpired n) s.part.tick = m) :
      exec (.periodExpiry n) s = .next (s.ends m) := by
    rw [← effect]
    exact congrArg Host.Outcome.next (s.onPart_ends _ released)
  have reaches (run : runs) : exec (.periodExpiry n) s = .next (s.ends held) :=
    event held ((if_pos run.1).trans (if_pos run.2))
  refine ⟨reaches, fun idle => event s.part.tick ?_, fun run settled => ?_⟩
  · unfold Part.whileWorking
    split
    · next working => exact if_neg fun timer => idle ⟨working, timer⟩
    · rfl
  obtain ⟨working, timer⟩ := id run
  have settledTick := s.part.settled_tick s.window.base working settled
  have ends (m : Part) (result : Part.finish s.window.base held = m) : becomes m := by
    show exec (.periodExpiry n) s = _
    rw [reaches run, State.ends, result]
  have taken (noTree : s.part.tree = []) : becomes (Part.settle s.window.base 4095 (s.part.tick.takeExpiry n)).grantBus :=
    ends _ (s.part.tick.finish_of_periodExpired s.window.base n _ working settledTick noTree)
  refine ⟨fun noTree running present => ?_, fun noTree suppressed => ?_, fun tree => ?_⟩
  · have triggers : s.part.tick.takeExpiry n = s.part.tick.trigger n := if_pos ⟨running, present, timer⟩
    exact triggers ▸ taken noTree
  · have nothing : s.part.tick.takeExpiry n = s.part.tick := by
      refine if_neg ?_
      rintro ⟨running, present, -⟩
      rcases suppressed with stopping | absent
      · exact absurd (stopping.symm.trans running) (by decide)
      · exact absurd (absent.symm.trans present) (by decide)
    have result := taken noTree
    rwa [nothing, Part.settle_of_settled _ _ _ settledTick] at result
  · exact ends _ (Part.finish_of_settled _ _
      (s.part.settled_withJobs s.window.base _ _ working (Or.inr tree) settled))

end Sys2Proof.Machine

/-! PROOF. Posts: what a slot host word does, and what the order record of an ARM does (R4, R6, R12 to R18, R28 to R30,
R36, R40). -/

namespace Sys2Proof.Machine

theorem Part.setSlot_setSlot (m : Part) (n : SlotNo) (x y : Slot) : (m.setSlot n x).setSlot n y = m.setSlot n y := by
  simp [Part.setSlot]

/-! ### The marks of followers (R36, R37) -/

theorem Slot.marked_eq (x : Slot) :
    x.marked = if x.state = .queued ∨ x.state = .active then { x with brokenMark := true } else x := by
  unfold Slot.marked
  cases x.state <;> rfl

theorem Slot.marked_marked (x : Slot) : x.marked.marked = x.marked := by
  rw [Slot.marked_eq, Slot.marked_eq]
  split <;> simp [*]

/-- The marks of the slots of a list, each at most once felt. -/
theorem Part.slot_markAll (l : List SlotNo) (m : Part) (k : SlotNo) :
    (l.foldl (fun m k => m.onSlot k Slot.marked) m).slot k = if k ∈ l then (m.slot k).marked else m.slot k := by
  induction l generalizing m with
  | nil => rfl
  | cons j l ih =>
    rw [List.foldl_cons, ih]
    by_cases same : j = k
    · subst same
      simp [Slot.marked_marked]
    · rw [Part.slot_onSlot_of_ne m j k _ same]
      simp [Ne.symm same]

theorem Part.slot_markFollowers (m : Part) (n k : SlotNo) :
    (m.markFollowers n).slot k = if k ∈ m.followers n then (m.slot k).marked else m.slot k :=
  Part.slot_markAll _ m k

/-- The marks change the slots alone. -/
theorem Part.markFollowers_rest (m : Part) (n : SlotNo) :
    m.markFollowers n = { m with slots := (m.markFollowers n).slots } := by
  unfold Part.markFollowers
  generalize m.followers n = l
  induction l generalizing m with
  | nil => rfl
  | cons k l ih =>
    rw [List.foldl_cons, ih]
    rfl

/-! ### What a host word does, row by row -/

/-- The slot with the post of its host word seen. -/
def Part.seePost (m : Part) (n : SlotNo) : Part := m.onSlot n fun x => { x with seenPost := hostPost m.sweep.word }

theorem slotNo_ofNat_val (n : SlotNo) : Fin.ofNat 16 n.val = n := Fin.ext (Nat.mod_eq_of_lt n.isLt)

theorem Part.handPost_of_seen (m : Part) (base : Word) (n : SlotNo) (seen : hostPost m.sweep.word = (m.slot n).seenPost) :
    m.handPost base n.val = m.afterSlot base n.val := by
  unfold Part.handPost
  rw [slotNo_ofNat_val]
  exact if_pos seen

section NewPost
variable (m : Part) (base : Word) (n : SlotNo) (new : hostPost m.sweep.word ≠ (m.slot n).seenPost)
include new

theorem Part.handPost_of_arm (arm : hostRequest m.sweep.word = 1) :
    m.handPost base n.val = if (m.seePost n).armActs n then
        ((m.seePost n).setSweepPhase (.order n.val)).sweepRead base (slotOffset n) 32
      else ((m.seePost n).answerPost n .ignoredBusy).setSweepPhase (.postWait n.val) := by
  have request : postRequest m.sweep.word = .arm := by simp [postRequest, arm]
  unfold Part.handPost
  rw [slotNo_ofNat_val]
  simp only [if_neg new, request]
  rfl

theorem Part.handPost_of_withdraw (withdraw : hostRequest m.sweep.word = 2) :
    m.handPost base n.val = ((m.seePost n).withdrawPost n).setSweepPhase (.postWait n.val) := by
  have request : postRequest m.sweep.word = .withdraw := by simp [postRequest, withdraw]
  unfold Part.handPost
  rw [slotNo_ofNat_val]
  simp only [if_neg new, request]
  rfl

theorem Part.handPost_of_noop (noArm : hostRequest m.sweep.word ≠ 1) (noWithdraw : hostRequest m.sweep.word ≠ 2) :
    m.handPost base n.val = ((m.seePost n).answerPost n .ignoredNoop).setSweepPhase (.postWait n.val) := by
  have request : postRequest m.sweep.word = .noop := by
    rw [postRequest, beq_eq_false_iff_ne.2 noArm, beq_eq_false_iff_ne.2 noWithdraw]
    rfl
  unfold Part.handPost
  rw [slotNo_ofNat_val]
  simp only [if_neg new, request]
  rfl

end NewPost

/-! ### Withdrawals (R15, R16) -/

theorem Part.withdrawPost_of_waiting (m : Part) (n : SlotNo)
    (state : (m.slot n).state = .taken ∨ (m.slot n).state = .queued) :
    m.withdrawPost n = if m.engine = .running then ((m.unqueue n).onSlot n withdrawnSlot).tellLeft n
      else ((m.unqueue n).onSlot n withdrawnSlot).tellPost (.postWord n) := by
  unfold Part.withdrawPost
  rcases state with state | state <;> simp only [state]

theorem Part.withdrawPost_of_active (m : Part) (n : SlotNo) (state : (m.slot n).state = .active) :
    m.withdrawPost n = if (m.slot n).withdrawMark then m.answerPost n .ignoredNoop
      else (m.onSlot n fun x => { x with withdrawMark := true }).answerPost n .acted := by
  unfold Part.withdrawPost
  simp only [state]

theorem Part.withdrawPost_of_hostOwned (m : Part) (n : SlotNo) (owned : (m.slot n).state.partOwned = false) :
    m.withdrawPost n = m.answerPost n .ignoredNoop := by
  unfold Part.withdrawPost
  cases state : (m.slot n).state <;> simp_all [SlotState.partOwned]

/-- The followers of a slot that has left service: itself it is part-owned no more. -/
theorem Part.followers_of_left (m : Part) (n : SlotNo) (x : Slot) (left : x.state.partOwned = false) :
    (m.setSlot n x).followers n = (List.finRange 16).filter fun k =>
      k != n && (m.slot k).state.partOwned && (m.slot k).order.follows == BitVec.ofNat 8 n.val := by
  refine List.filter_congr fun k _ => ?_
  by_cases same : k = n
  · subst same
    simp [Slot.follows, left]
  · rw [Part.slot_setSlot_of_ne m n k x (Ne.symm same)]
    rw [bne_iff_ne.2 same, Bool.true_and, Slot.follows]

/-- The slots that follow slot `n` (R33, R36). -/
def Part.otherFollowers (m : Part) (n : SlotNo) : List SlotNo :=
  (List.finRange 16).filter fun k =>
    k != n && (m.slot k).state.partOwned && (m.slot k).order.follows == BitVec.ofNat 8 n.val

/-- A slot that leaves service in RUNNING, as `x`: its followers are marked, and the delivery begins with its part word. -/
theorem Part.tellLeft_eq (m : Part) (n : SlotNo) (x : Slot) (p : PortNo) (q : List SlotNo)
    (left : x.state.partOwned = false) :
    let t := ((m.setSlot n x).setQueue p q).tellLeft n
    t = { (m.setSlot n x).setQueue p q with
      slots := t.slots, tree := .word n :: (m.otherFollowers n).map .left ++ m.tree } ∧
    t.slot n = x ∧
    ∀ k, k ≠ n → t.slot k =
      if k ∈ m.otherFollowers n ∧ ((m.slot k).state = .queued ∨ (m.slot k).state = .active) then
        { m.slot k with brokenMark := true }
      else m.slot k := by
  intro t
  let listed := (m.setSlot n x).setQueue p q
  have followers : listed.followers n = m.otherFollowers n := m.followers_of_left n x left
  have slots (k : SlotNo) : t.slot k = if k ∈ m.otherFollowers n then (listed.slot k).marked else listed.slot k := by
    rw [← followers]
    exact listed.slot_markFollowers n k
  refine ⟨?_, ?_, fun k other => ?_⟩
  · have tree := congrArg Part.tree (listed.markFollowers_rest n)
    show ({ listed.markFollowers n with
      tree := .word n :: (listed.followers n).map .left ++ (listed.markFollowers n).tree } : Part) = _
    rw [tree, followers, listed.markFollowers_rest n]
    rfl
  · rw [slots, if_neg (by simp [Part.otherFollowers])]
    exact Part.slot_setSlot m n x
  · have same : listed.slot k = m.slot k := Part.slot_setSlot_of_ne m n k x (Ne.symm other)
    rw [slots, same, Slot.marked_eq, ite_and]

/-! ### The order record of an ARM -/

section Arm
variable (m : Part) (n : SlotNo) (o : Order)

theorem Part.armPost_of_stopping (stopping : m.engine ≠ .running) :
    m.armPost n o = (m.onSlot n fun x => { x with postOutcome := .ignoredBusy }).tellPost (.postWord n) :=
  if_neg stopping

theorem Part.armPost_of_rejected (code : Byte) (running : m.engine = .running) (check : m.orderCheck n o = some code) :
    m.armPost n o = ((m.onSlot n fun x => { x with postOutcome := .acted }).onSlot n
      fun x => rejectedSlot x code).tellPost (.rejection n o.notify) := by
  unfold Part.armPost
  simp only [if_pos running, check]

theorem Part.armPost_of_taken (running : m.engine = .running) (check : m.orderCheck n o = none) :
    m.armPost n o =
      ((m.onSlot n fun x => { x with postOutcome := .acted }).takeOrder n o).tellPost (.takeWord n) := by
  unfold Part.armPost
  simp only [if_pos running, check]

end Arm

theorem Order.isPeriodic_eq (o : Order) : o.isPeriodic = (o.follows == 0xFF && o.period != 0) := by
  rw [Order.isPeriodic, Order.isFollower, bne, Bool.not_not]

theorem Slot.repeating_eq (x : Slot) : x.repeating =
    ((x.order.follows == 0xFF && x.order.period != 0) || (x.order.follows != 0xFF && x.repeatFlag)) := by
  rw [Slot.repeating, Order.isPeriodic_eq, Order.isFollower]

/-- The repeat flag recorded at the take of an order (R28). -/
theorem Part.repeatAtTake_eq (m : Part) (o : Order) :
    let before := m.slot (Fin.ofNat 16 o.follows.toNat)
    m.repeatAtTake o = (o.follows != 0xFF && (before.state.partOwned &&
      ((before.order.follows == 0xFF && before.order.period != 0) ||
        (before.order.follows != 0xFF && before.repeatFlag)) &&
      !before.withdrawMark && !before.brokenMark)) := by
  intro before
  rw [← Slot.repeating_eq]
  rfl

/-- It does not look at post outcomes. -/
theorem Part.repeatAtTake_onPost (m : Part) (n : SlotNo) (o : Order) (outcome : PostOutcome) :
    (m.onSlot n fun x => { x with postOutcome := outcome }).repeatAtTake o = m.repeatAtTake o := by
  unfold Part.repeatAtTake
  by_cases same : n = Fin.ofNat 16 o.follows.toNat
  · subst same
    rw [Part.slot_onSlot]
    rfl
  · rw [Part.slot_onSlot_of_ne m n _ _ same]

/-- A trigger that finds its slot TAKEN touches no other slot, no job and no delivery tree. -/
theorem Part.trigger_others_of_taken (m : Part) (n : SlotNo) (taken : (m.slot n).state = .taken) :
    (∀ k, k ≠ n → (m.trigger n).slot k = m.slot k) ∧ (m.trigger n).tree = m.tree ∧ (m.trigger n).jobs = m.jobs ∧
      (m.trigger n).eventNo = m.eventNo := by
  rw [m.trigger_of_taken n taken]
  refine ⟨fun k other => ?_, ?_⟩
  · rw [Part.slot_placeTriggered]
    exact Part.slot_onSlot_of_ne m n k _ (Ne.symm other)
  · unfold Part.placeTriggered
    split <;> exact ⟨rfl, rfl, rfl⟩

/-- An order that is taken as `y` and triggered at its take (R29): its slot is QUEUED, placed by R40. -/
theorem Part.takeTriggered_spec (m : Part) (n : SlotNo) (y : Slot) (taken : y.state = .taken) :
    let t := (m.setSlot n y).trigger n
    t.slot n = { y with state := .queued } ∧ (∀ k, k ≠ n → t.slot k = m.slot k) ∧ t.tree = m.tree ∧ t.jobs = m.jobs ∧
    t.eventNo = m.eventNo ∧ placedByUrgency (fun k => (t.slot k).order.urgent) n (m.queue y.order.portNo)
      (t.queue y.order.portNo) := by
  intro t
  have mine : (m.setSlot n y).slot n = y := Part.slot_setSlot m n y
  have state : ((m.setSlot n y).slot n).state = .taken := by rw [mine, taken]
  obtain ⟨others, tree, jobs, event⟩ := (m.setSlot n y).trigger_others_of_taken n state
  have slot := (m.setSlot n y).slot_trigger_of_taken n state
  have placed := (m.setSlot n y).trigger_placed_of_taken n state
  rw [mine] at slot placed
  have orders (k : SlotNo) : (t.slot k).order = ((m.setSlot n y).slot k).order := by
    by_cases same : k = n
    · subst same
      rw [mine]
      exact (congrArg Slot.order slot).trans rfl
    · exact congrArg Slot.order (others k same)
  simp only [← orders] at placed
  exact ⟨slot, fun k other => (others k other).trans (Part.slot_setSlot_of_ne m n k y (Ne.symm other)), tree, jobs, event,
    placed⟩

/-- A post answered without more. -/
theorem Part.answered_of_handed (m t : Part) (n : SlotNo) (y : Slot)
    (handed : t = ((m.setSlot n y).tellPost (.postWord n)).setSweepPhase (.postWait n.val)) :
    t.slot n = y ∧ (∀ k, k ≠ n → t.slot k = m.slot k) ∧
      (t.sweep.phase = .postWait n.val ∧ t.sweepAccess = m.sweepAccess) ∧ t.tree = m.tree ∧
      t.jobs = ⟨.postWord n, m.eventNo⟩ :: m.jobs := by
  subst handed
  exact ⟨Part.slot_setSlot m n y, fun k other => Part.slot_setSlot_of_ne m n k y (Ne.symm other), ⟨rfl, rfl⟩, rfl, rfl⟩

/-- Settles O37: a host word row by row, and an ARM's order record by the engine state, the check and the order's class. -/
theorem postsFollowSlotState : Obligations.PostsFollowSlotState := by
  refine ⟨fun m base n => ?_, fun m n o => ?_⟩
  · intro w x t seen followers waits answered withdrawn
    refine ⟨m.handPost_of_seen base n, fun new => ?_⟩
    have seenSlot : (m.seePost n).slot n = seen := Part.slot_setSlot m n seen
    have others k (other : k ≠ n) : (m.seePost n).slot k = m.slot k := Part.slot_setSlot_of_ne m n k seen (Ne.symm other)
    have changed (f : Slot → Slot) : (m.seePost n).onSlot n f = m.setSlot n (f seen) := by
      rw [Part.onSlot, seenSlot]
      exact m.setSlot_setSlot n seen _
    have answers (o : PostOutcome) (handed : t = ((m.seePost n).answerPost n o).setSweepPhase (.postWait n.val)) :
        answered { seen with postOutcome := o } :=
      m.answered_of_handed t n _ (by rw [handed, Part.answerPost, changed])
    have withdraws (state : x.state = .taken ∨ x.state = .queued) :
        (m.seePost n).withdrawPost n = if m.engine = .running then
          ((((m.seePost n).unqueue n).onSlot n withdrawnSlot).tellLeft n)
        else (((m.seePost n).unqueue n).onSlot n withdrawnSlot).tellPost (.postWord n) :=
      (m.seePost n).withdrawPost_of_waiting n (by rw [seenSlot]; exact state)
    refine ⟨fun arm running free => ?_, fun arm busy => ?_, fun withdraw state => ?_, fun withdraw active mark => ?_,
      fun withdraw active mark => ?_, fun withdraw free => ?_, fun noArm noWithdraw => ?_⟩
    · have acts : (m.seePost n).armActs n = true := by
        rw [Part.armActs, seenSlot]
        simp [show (m.seePost n).engine = .running from running, show seen.state.partOwned = false from free]
      have reads : t = ((m.seePost n).setSweepPhase (.order n.val)).sweepRead base (slotOffset n) 32 :=
        (m.handPost_of_arm base n new arm).trans (if_pos acts)
      rw [reads]
      exact ⟨seenSlot, others, rfl, rfl, rfl⟩
    · have refuses : ¬(m.seePost n).armActs n = true := by
        rw [Part.armActs, seenSlot]
        rcases busy with stopping | own
        · simp [show (m.seePost n).engine ≠ .running from stopping]
        · simp [show seen.state.partOwned = true from own]
      exact answers .ignoredBusy ((m.handPost_of_arm base n new arm).trans (if_neg refuses))
    · have leaves : ((m.seePost n).unqueue n).onSlot n withdrawnSlot = (m.setSlot n withdrawn).setQueue x.order.portNo
          ((m.queue x.order.portNo).filter fun k => k != n) := by
        rw [Part.unqueue, seenSlot]
        exact congrArg (fun k : Part => k.setQueue x.order.portNo ((m.queue x.order.portNo).filter fun k => k != n))
          (changed withdrawnSlot)
      have handed := m.handPost_of_withdraw base n new withdraw
      rw [withdraws state, leaves] at handed
      by_cases running : m.engine = .running
      · rw [if_pos running] at handed
        obtain ⟨rest, slot, marks⟩ := m.tellLeft_eq n withdrawn x.order.portNo
          ((m.queue x.order.portNo).filter fun k => k != n) rfl
        have whole : t = _ := handed
        rw [whole]
        refine ⟨(congrArg (fun k : Part => k.queue x.order.portNo) rest).trans (Part.queue_setQueue _ _ _),
          fun no => absurd running no, fun _ => ⟨slot, ⟨by rw [whole]; rfl, ?_⟩, ?_, ?_, marks⟩⟩
        · rw [whole]
          exact (congrArg Part.sweepAccess rest).trans rfl
        · exact (congrArg Part.jobs rest).trans rfl
        · exact (congrArg Part.tree rest).trans rfl
      · rw [if_neg running] at handed
        have whole : t = _ := handed
        refine ⟨?_, fun _ => Part.answered_of_handed (m.setQueue x.order.portNo
          ((m.queue x.order.portNo).filter fun k => k != n)) t n withdrawn whole, fun yes => absurd yes running⟩
        rw [whole]
        exact Part.queue_setQueue _ _ _
    · have post := (m.seePost n).withdrawPost_of_active n (by rw [seenSlot]; exact active)
      rw [seenSlot, show seen.withdrawMark = false from mark, if_neg Bool.false_ne_true] at post
      have handed : t = _ := m.handPost_of_withdraw base n new withdraw
      rw [post, Part.answerPost, changed, Part.onSlot, Part.slot_setSlot, Part.setSlot_setSlot] at handed
      exact m.answered_of_handed t n _ handed
    · have post := (m.seePost n).withdrawPost_of_active n (by rw [seenSlot]; exact active)
      rw [seenSlot, show seen.withdrawMark = true from mark, if_pos rfl] at post
      exact answers .ignoredNoop ((m.handPost_of_withdraw base n new withdraw).trans (by rw [post]))
    · have post := (m.seePost n).withdrawPost_of_hostOwned n (by rw [seenSlot]; exact free)
      exact answers .ignoredNoop ((m.handPost_of_withdraw base n new withdraw).trans (by rw [post]))
    · exact answers .ignoredNoop (m.handPost_of_noop base n new noArm noWithdraw)
  · intro x t before repeats taken
    have acted : ((m.onSlot n fun x => { x with postOutcome := .acted }).takeOrder n o) =
        if o.isFollower then m.setSlot n taken else (m.setSlot n taken).trigger n := by
      rw [Part.takeOrder, Part.repeatAtTake_onPost, Part.repeatAtTake_eq]
      simp only [Part.onSlot, Part.slot_setSlot, Part.setSlot_setSlot, takenSlot, Order.isPeriodic_eq]
      rfl
    by_cases running : m.engine = .running
    · cases check : m.orderCheck n o with
      | some code =>
        have rejects : t = { m.setSlot n { x with
            postOutcome := .acted, state := .rejected, result := ⟨code, 0, 0, 0, 0, 0, zeroReply⟩ } with
            jobs := ⟨.rejection n (o.flags.getLsbD 0), m.eventNo⟩ :: m.jobs } := by
          rw [show t = _ from m.armPost_of_rejected n o code running check, Part.onSlot, Part.onSlot, Part.slot_setSlot,
            Part.setSlot_setSlot]
          rfl
        refine ⟨fun k other => ?_, ?_, fun no => absurd running no, fun code' _ same => ?_,
          fun _ same => (by cases same), fun _ same => (by cases same)⟩
        · rw [rejects]
          exact Part.slot_setSlot_of_ne m n k _ (Ne.symm other)
        · rw [rejects]
          rfl
        · obtain rfl := Option.some.inj same
          exact rejects
      | none =>
        have takes := m.armPost_of_taken n o running check
        rw [acted] at takes
        by_cases plain : o.follows = 0xFF
        · have noFollower : ¬o.isFollower = true := mt (Order.isFollower_iff o).1 (not_not.2 plain)
          rw [if_neg noFollower] at takes
          obtain ⟨slot, others, tree, jobs, event, a, b, split, after, normal, urgent⟩ :=
            m.takeTriggered_spec n taken rfl
          have whole : t = ((m.setSlot n taken).trigger n).tellPost (.takeWord n) := takes
          have here : (((m.setSlot n taken).trigger n).slot n).order.urgent = o.flags.getLsbD 1 := by
            rw [slot]
            rfl
          rw [whole]
          exact ⟨others, tree, fun no => absurd running no, fun _ _ same => (by cases same), fun _ _ no => absurd plain no,
            fun _ _ _ => ⟨slot, congrArg₂ (fun e j => (⟨.takeWord n, e⟩ : Job) :: j) event jobs, a, b, split, after,
              fun no => normal (here.trans no), fun yes => urgent (here.trans yes)⟩⟩
        · rw [if_pos ((Order.isFollower_iff o).2 plain)] at takes
          have whole : t = { m.setSlot n taken with jobs := ⟨.takeWord n, m.eventNo⟩ :: m.jobs } := takes
          refine ⟨fun k other => ?_, ?_, fun no => absurd running no, fun _ _ same => (by cases same),
            fun _ _ _ => whole, fun _ _ yes => absurd yes plain⟩
          · rw [whole]
            exact Part.slot_setSlot_of_ne m n k _ (Ne.symm other)
          · rw [whole]
            rfl
    · have refuses : t = { m.setSlot n { x with postOutcome := .ignoredBusy } with
          jobs := ⟨.postWord n, m.eventNo⟩ :: m.jobs } := m.armPost_of_stopping n o running
      refine ⟨fun k other => ?_, ?_, fun _ => refuses, fun _ yes => absurd yes running, fun yes => absurd yes running,
        fun yes => absurd yes running⟩
      · rw [refuses]
        exact Part.slot_setSlot_of_ne m n k _ (Ne.symm other)
      · rw [refuses]
        rfl

end Sys2Proof.Machine

/-! PROOF. The checks and the reads of the setup (R47, R48, R165, R168 to R172, R184). -/

namespace Sys2Proof.Machine

/-! ### The first of a sorted list -/

theorem find?_of_first {n : Nat} (l : List (Fin n)) (f : Fin n → Bool) (i : Fin n) (sorted : l.Pairwise (· < ·))
    (mem : i ∈ l) (holds : f i = true) (first : ∀ j, j < i → f j = false) : l.find? f = some i := by
  induction l with
  | nil => cases mem
  | cons a l ih =>
    obtain ⟨least, sorted⟩ := List.pairwise_cons.1 sorted
    obtain rfl | mem := List.mem_cons.1 mem
    · exact List.find?_cons_of_pos holds
    · rw [List.find?_cons_of_neg (by simp [first a (least i mem)])]
      exact ih sorted mem

theorem mem_allPorts (p : PortNo) : p ∈ allPorts := by
  revert p
  decide

theorem mem_allTables (t : TableNo) : t ∈ allTables := by simp [allTables]

theorem allPorts_sorted : allPorts.Pairwise (· < ·) := by decide

theorem allTables_sorted : allTables.Pairwise (· < ·) := by decide

/-! ### The code of the first check that fails (R168, Table 10-4) -/

section Codes
variable (base : Word) (x : Setup)

theorem setupCheck_of_signature (bad : x.global.signature ≠ 0x0000416A) : setupCheck base x = 1 := if_pos bad

theorem globalFails_iff (g : GlobalSetup) : globalFails g = true ↔ g.sweepInterval = 0 ∨ g.claimWaitLimit = 0 := by
  simp [globalFails]

variable (signature : x.global.signature = 0x0000416A)
include signature

theorem goodSignature : ¬x.global.signature ≠ Config.signature := not_not.2 signature

theorem setupCheck_of_global (bad : globalFails x.global = true) : setupCheck base x = 2 :=
  (if_neg (not_not.2 signature)).trans (if_pos bad)

variable (global : globalFails x.global = false)
include global

theorem setupCheck_of_port (p : PortNo) (first : (allPorts.find? fun p => portSetupFails (x.ports.get p)) = some p) :
    setupCheck base x = 3 + BitVec.ofNat 4 p.val := by
  unfold setupCheck
  rw [if_neg (goodSignature x signature), global, if_neg Bool.false_ne_true, first]
  exact BitVec.ofNat_add 3 p.val

variable (ports : (allPorts.find? fun p => portSetupFails (x.ports.get p)) = none)
include ports

theorem setupCheck_of_table (t : TableNo)
    (first : (allTables.find? fun t => tableEntryFails (x.tables.get t)) = some t) :
    setupCheck base x = 7 + BitVec.ofNat 4 t.val := by
  unfold setupCheck
  rw [if_neg (goodSignature x signature), global, if_neg Bool.false_ne_true, ports, first]
  exact BitVec.ofNat_add 7 t.val

theorem setupCheck_of_tables (tables : (allTables.find? fun t => tableEntryFails (x.tables.get t)) = none) :
    setupCheck base x = if overlapFails base x.tables then 15 else 0 := by
  unfold setupCheck
  rw [if_neg (goodSignature x signature), global, if_neg Bool.false_ne_true, ports, tables]

end Codes

/-- The codes that the ports, the tables and the overlaps give are none of the first two. -/
theorem setupCheck_of_goodGlobal (base : Word) (x : Setup) (signature : x.global.signature = 0x0000416A)
    (global : globalFails x.global = false) : setupCheck base x ≠ 1 ∧ setupCheck base x ≠ 2 := by
  have portCodes : ∀ p : PortNo, (3 + BitVec.ofNat 4 p.val : BitVec 4) ≠ 1 ∧ (3 + BitVec.ofNat 4 p.val : BitVec 4) ≠ 2 := by
    decide
  have tableCodes : ∀ t : TableNo, (7 + BitVec.ofNat 4 t.val : BitVec 4) ≠ 1 ∧ (7 + BitVec.ofNat 4 t.val : BitVec 4) ≠ 2 := by
    decide
  cases ports : allPorts.find? fun p => portSetupFails (x.ports.get p) with
  | some p =>
    rw [setupCheck_of_port base x signature global p ports]
    exact portCodes p
  | none =>
    cases tables : allTables.find? fun t => tableEntryFails (x.tables.get t) with
    | some t =>
      rw [setupCheck_of_table base x signature global ports t tables]
      exact tableCodes t
    | none =>
      rw [setupCheck_of_tables base x signature global ports tables]
      cases overlapFails base x.tables <;> decide

/-! ### Port setups (R170, Table 10-6) -/

theorem portSetupFails_iff (x : PortSetup) : portSetupFails x = true ↔
    3 < x.role.toNat ∨
    ((x.role = 1 ∨ x.role = 2 ∨ x.role = 3) ∧
      (7 < x.speed.toNat ∨ 2 < x.parity.toNat ∨ x.gapLimit.toNat < 2 ∨ 15 < x.gapLimit.toNat)) ∨
    ((x.role = 1 ∨ x.role = 3) ∧ (x.replyTimeout.toNat < 5 ∨ 5000 < x.replyTimeout.toNat)) ∨
    ((x.role = 2 ∨ x.role = 3) ∧ 254 < x.ownStation.toNat) ∨
    (x.role = 3 ∧ (254 < x.partnerStation.toNat ∨ x.partnerStation = x.ownStation ∨
      x.bidLimit.toNat < 1 ∨ 31 < x.bidLimit.toNat)) := by
  by_cases high : 3 < x.role.toNat
  · simp [portSetupFails, high]
  have role : x.role = 0 ∨ x.role = 1 ∨ x.role = 2 ∨ x.role = 3 := by
    simp only [← BitVec.toNat_inj, BitVec.reduceToNat]
    omega
  rcases role with role | role | role | role
  · simp [portSetupFails, role]
  all_goals simp [portSetupFails, role, or_assoc]

/-! ### Directory entries (R46 to R48) -/

theorem TableEntry.byteSize_eq (e : TableEntry) :
    e.byteSize = if e.kind = 1 then (e.length.toNat + 7) / 8 else 2 * e.length.toNat := by
  simp [TableEntry.byteSize, TableEntry.isBits]

theorem tableEntryFails_iff (e : TableEntry) : tableEntryFails e = true ↔ e.present.getLsbD 0 = true ∧
    (1 < e.kind.toNat ∨ 2 < e.access.toNat ∨ e.length = 0 ∨ 65535 < e.length.toNat ∨
      (e.kind = 0 ∧ e.base.toNat % 2 = 1) ∨
      2 ^ 32 < e.base.toNat + if e.kind = 1 then (e.length.toNat + 7) / 8 else 2 * e.length.toNat) := by
  have empty : e.length = 0 ↔ e.length.toNat = 0 := by simp [← BitVec.toNat_inj]
  rw [← TableEntry.byteSize_eq, empty]
  simp [tableEntryFails, TableEntry.isPresent, or_assoc]

/-- A present table whose entry passes the checks has bytes. -/
theorem TableEntry.hasBytes (e : TableEntry) (present : e.isPresent = true) (passes : tableEntryFails e = false) :
    1 ≤ e.byteSize := by
  have length : e.length.toNat ≠ 0 := by
    intro empty
    simp [tableEntryFails, present, empty] at passes
  rw [TableEntry.byteSize]
  split <;> omega

/-- The byte at an address belongs to the table. -/
def TableEntry.holds (e : TableEntry) (a : Nat) : Prop :=
  e.isPresent = true ∧ e.base.toNat ≤ a ∧ a < e.base.toNat + e.byteSize

theorem meetsArea_iff (base : Word) (e : TableEntry) (passes : tableEntryFails e = false) :
    meetsArea base e = true ↔ ∃ a, e.holds a ∧ base.toNat ≤ a ∧ a < base.toNat + 0x800 := by
  rw [meetsArea, Bool.and_eq_true]
  constructor
  · rintro ⟨present, meets⟩
    obtain ⟨a, shared⟩ := (rangesMeet_iff _ _ _ _ (e.hasBytes present passes) (by decide)).1 meets
    exact ⟨a, ⟨present, shared.1, shared.2.1⟩, shared.2.2⟩
  · rintro ⟨a, ⟨present, lower, upper⟩, area⟩
    exact ⟨present, (rangesMeet_iff _ _ _ _ (e.hasBytes present passes) (by decide)).2 ⟨a, lower, upper, area⟩⟩

theorem tablesMeet_iff (e f : TableEntry) (passes : tableEntryFails e = false) (passes' : tableEntryFails f = false) :
    tablesMeet e f = true ↔ ∃ a, e.holds a ∧ f.holds a := by
  rw [tablesMeet, Bool.and_eq_true, Bool.and_eq_true]
  constructor
  · rintro ⟨⟨present, present'⟩, meets⟩
    obtain ⟨a, lower, upper, lower', upper'⟩ :=
      (rangesMeet_iff _ _ _ _ (e.hasBytes present passes) (f.hasBytes present' passes')).1 meets
    exact ⟨a, ⟨present, lower, upper⟩, present', lower', upper'⟩
  · rintro ⟨a, ⟨present, lower, upper⟩, present', lower', upper'⟩
    exact ⟨⟨present, present'⟩,
      (rangesMeet_iff _ _ _ _ (e.hasBytes present passes) (f.hasBytes present' passes')).2 ⟨a, lower, upper, lower', upper'⟩⟩

/-- Two tables share a byte whichever of them is named first. -/
theorem overlapFails_iff (base : Word) (dir : Vector TableEntry 8) (passes : ∀ t, tableEntryFails (dir.get t) = false) :
    overlapFails base dir = true ↔
      (∃ (t : TableNo) (a : Nat), (dir.get t).holds a ∧ base.toNat ≤ a ∧ a < base.toNat + 0x800) ∨
      ∃ (t u : TableNo) (a : Nat), t ≠ u ∧ (dir.get t).holds a ∧ (dir.get u).holds a := by
  simp only [overlapFails, List.any_eq_true, Bool.or_eq_true, Bool.and_eq_true, decide_eq_true_eq, mem_allTables,
    true_and, meetsArea_iff base _ (passes _), tablesMeet_iff _ _ (passes _) (passes _)]
  constructor
  · rintro ⟨t, area | ⟨u, order, a, shared⟩⟩
    · exact Or.inl ⟨t, area⟩
    · exact Or.inr ⟨t, u, a, Fin.ne_of_lt order, shared⟩
  · rintro (⟨t, area⟩ | ⟨t, u, a, other, mine, yours⟩)
    · exact ⟨t, Or.inl area⟩
    · rcases lt_or_gt_of_ne other with order | order
      · exact ⟨t, Or.inr ⟨u, order, a, mine, yours⟩⟩
      · exact ⟨u, Or.inr ⟨t, order, a, yours, mine⟩⟩

/-! ### Fields (R184) -/

theorem halfAt_toNat (bytes : List Byte) (i : Nat) :
    (halfAt bytes i).toNat = (byteAt bytes i).toNat + 256 * (byteAt bytes (i + 1)).toNat := by
  have low := (byteAt bytes i).isLt
  rw [halfAt, BitVec.toNat_append, ← Nat.shiftLeft_add_eq_or_of_lt low, Nat.shiftLeft_eq]
  omega

theorem wordAt_toNat (bytes : List Byte) (i : Nat) :
    (wordAt bytes i).toNat = (halfAt bytes i).toNat + 65536 * (halfAt bytes (i + 2)).toNat := by
  have low := (halfAt bytes i).isLt
  rw [wordAt, BitVec.toNat_append, ← Nat.shiftLeft_add_eq_or_of_lt low, Nat.shiftLeft_eq]
  omega

/-! ### The reads of LOADING (R168, R171, R172) -/

section Reads
variable (m : Part) (base : Word) (bytes : List Byte)

theorem Part.loaderReadDone_setupRead (k : Nat) (phase : m.loader.phase = .setupRead k) (more : k < 12) :
    m.loaderReadDone base bytes = { m with
      loader := { m.loader with candidate := m.loader.candidate.store k bytes, phase := .setupRead (k + 1) }
      sweepAccess := some (.read (areaAddress base (setupRead (k + 1)).1) (setupRead (k + 1)).2 []) } := by
  unfold Part.loaderReadDone
  rw [phase]
  exact if_pos more

theorem Part.loaderReadDone_lastSetupRead (phase : m.loader.phase = .setupRead 12) :
    m.loaderReadDone base bytes =
      if setupCheck base (m.loader.candidate.store 12 bytes) = 0 then { m with
        loader := { m.loader with candidate := m.loader.candidate.store 12 bytes, phase := .adoptRead 0 }
        sweepAccess := some (.read (areaAddress base 0x420) 4 []) }
      else { m with
        engine := .stopped, setupError := setupCheck base (m.loader.candidate.store 12 bytes), loader := Loader.reset
        causes := m.causes ||| 8 } := by
  unfold Part.loaderReadDone
  rw [phase]
  rfl

theorem Part.loaderReadDone_adoptRead (k : Nat) (phase : m.loader.phase = .adoptRead k) (more : k < 23) :
    m.loaderReadDone base bytes = { m with
      loader := { m.loader.storeWord k (wordAt bytes 0) with phase := .adoptRead (k + 1) }
      sweepAccess := some (.read (areaAddress base (adoptRead (k + 1))) 4 []) } := by
  unfold Part.loaderReadDone
  rw [phase]
  exact if_pos more

theorem Part.loaderReadDone_lastAdoptRead (phase : m.loader.phase = .adoptRead 23) :
    m.loaderReadDone base bytes = { m with
      setup := m.loader.candidate
      loader := { m.loader with holdWords := m.loader.holdWords.set 7 (wordAt bytes 0), phase := .adopting 0 } } := by
  unfold Part.loaderReadDone
  rw [phase]
  rfl

end Reads

theorem Setup.store_port (x : Setup) (p : PortNo) (bytes : List Byte) :
    x.store (p.val + 1) bytes = { x with ports := x.ports.set p (PortSetup.ofBytes bytes) } := by
  have low : p.val + 1 < 5 := by omega
  have place : p.val % 4 = p.val := Nat.mod_eq_of_lt p.isLt
  simp [Setup.store, low, place]

theorem Setup.store_table (x : Setup) (t : TableNo) (bytes : List Byte) :
    x.store (t.val + 5) bytes = { x with tables := x.tables.set t (TableEntry.ofBytes bytes) } := by
  have place : t.val % 8 = t.val := Nat.mod_eq_of_lt t.isLt
  simp [Setup.store, place]

theorem Loader.storeWord_slot (l : Loader) (n : SlotNo) (w : Word) :
    l.storeWord n.val w = { l with hostWords := l.hostWords.set n w } := by
  have place : n.val % 16 = n.val := by omega
  simp [Loader.storeWord, n.isLt, place]

theorem Loader.storeWord_table (l : Loader) (t : TableNo) (w : Word) :
    l.storeWord (t.val + 16) w = { l with holdWords := l.holdWords.set t w } := by
  have place : t.val % 8 = t.val := Nat.mod_eq_of_lt t.isLt
  simp [Loader.storeWord, place]

theorem setupRead_afterPort : ∀ p : PortNo, setupRead (p.val + 1 + 1) =
    (if p.val < 3 then 0x060 + 32 * (p.val + 1) else 0x100, if p.val < 3 then 32 else 12) := by decide

theorem setupRead_afterTable : ∀ u : TableNo, u.val < 7 → setupRead (u.val + 5 + 1) = (0x100 + 32 * (u.val + 1), 12) := by
  decide

theorem adoptRead_afterSlot : ∀ n : SlotNo, adoptRead (n.val + 1) =
    if n.val < 15 then 0x420 + 64 * (n.val + 1) else 0x10C := by decide

theorem adoptRead_afterTable : ∀ u : TableNo, u.val < 7 → adoptRead (u.val + 16 + 1) = 0x10C + 32 * (u.val + 1) := by
  decide

/-- Settles O43: the first check that fails gives the code; the overlaps by shared bytes; the fields byte by byte; the
reads of LOADING by their places. -/
theorem globalAndPortSetupChecks : Obligations.GlobalAndPortSetupChecks := by
  refine ⟨fun base bytes ports tables => ?_, portSetupFails_iff, fun base x signature interval limit => ?_,
    fun base offset low => if_pos low, fun bytes i => ⟨halfAt_toNat bytes i, wordAt_toNat bytes i, rfl, rfl, rfl⟩,
    fun m base bytes => ?_⟩
  · intro code
    refine ⟨setupCheck_of_signature base ⟨GlobalSetup.ofBytes bytes, ports, tables⟩, fun signature bad => ?_,
      fun signature interval limit => ?_, fun bytes' word interval limit => ?_⟩
    · exact setupCheck_of_global base _ signature ((globalFails_iff _).2 bad)
    · exact setupCheck_of_goodGlobal base _ signature
        (Bool.eq_false_iff.2 (mt (globalFails_iff _).1 (not_or.2 ⟨interval, limit⟩)))
    · simp only [code, setupCheck, GlobalSetup.ofBytes, globalFails, word, interval, limit]
  · have global : globalFails x.global = false :=
      Bool.eq_false_iff.2 (mt (globalFails_iff _).1 (not_or.2 ⟨interval, limit⟩))
    intro size holds fails overlap
    have failsIff (t : TableNo) : tableEntryFails (x.tables.get t) = true ↔ fails (x.tables.get t) :=
      tableEntryFails_iff _
    have passesIff (t : TableNo) : tableEntryFails (x.tables.get t) = false ↔ ¬fails (x.tables.get t) := by
      rw [← failsIff, Bool.not_eq_true]
    have holdsIff (e : TableEntry) (a : Nat) : e.holds a ↔ holds e a := by
      rw [TableEntry.holds, TableEntry.byteSize_eq]
      rfl
    refine ⟨fun p bad first => ?_, fun good => ⟨fun t bad first => ?_, fun good' => ?_⟩⟩
    · exact setupCheck_of_port base x signature global p
        (find?_of_first _ _ p allPorts_sorted (mem_allPorts p) bad first)
    all_goals have ports : allPorts.find? (fun p => portSetupFails (x.ports.get p)) = none := by simp [good]
    · exact setupCheck_of_table base x signature global ports t (find?_of_first _ _ t allTables_sorted (mem_allTables t)
        ((failsIff t).2 bad) fun u before => (passesIff u).2 (first u before))
    · have tables : allTables.find? (fun t => tableEntryFails (x.tables.get t)) = none := by
        simp [fun t => (passesIff t).2 (good' t)]
      have meets := overlapFails_iff base x.tables fun t => (passesIff t).2 (good' t)
      simp only [holdsIff] at meets
      rw [setupCheck_of_tables base x signature global ports tables]
      exact ⟨fun yes => if_pos (meets.2 yes), fun no => if_neg (mt meets.1 no)⟩
  · intro l t reads last
    refine ⟨fun phase => ?_, fun p phase => ?_, fun u low phase => ?_, fun phase => ?_, fun n phase => ?_,
      fun u low phase => ?_, m.loaderReadDone_lastAdoptRead base bytes⟩
    · exact m.loaderReadDone_setupRead base bytes 0 phase (by decide)
    · have done := m.loaderReadDone_setupRead base bytes (p.val + 1) phase (by omega)
      rw [Setup.store_port, setupRead_afterPort] at done
      exact done
    · have done := m.loaderReadDone_setupRead base bytes (u.val + 5) phase (by omega)
      rw [Setup.store_table, setupRead_afterTable u low] at done
      exact done
    · have done := m.loaderReadDone_lastSetupRead base bytes phase
      exact ⟨fun good => done.trans (if_pos good), fun bad => done.trans (if_neg bad)⟩
    · have done := m.loaderReadDone_adoptRead base bytes n.val phase (by omega)
      rw [Loader.storeWord_slot, adoptRead_afterSlot] at done
      exact done
    · have done := m.loaderReadDone_adoptRead base bytes (u.val + 16) phase (by omega)
      rw [Loader.storeWord_table, adoptRead_afterTable u low] at done
      exact done

end Sys2Proof.Machine

/-! PROOF. Bit runs, and the accesses of a granted deposit or store (R81, R90, R100, R117, R118, R157). -/

namespace Sys2Proof.Machine

/-! ### Bytes and bits -/

/-- Bit `k` of a byte built from its first `n` bits. -/
theorem getLsbD_bitsUpTo (f : Nat → Bool) (n k : Nat) (low : k < 8) :
    ((List.range n).foldl (fun acc i => if f i then acc ||| BitVec.twoPow 8 i else acc) (0 : Byte)).getLsbD k =
      (decide (k < n) && f k) := by
  induction n with
  | zero => simp
  | succ n ih =>
    rw [List.range_succ, List.foldl_append, List.foldl_cons, List.foldl_nil]
    by_cases here : n = k
    · subst here
      cases bit : f n <;> simp_all
    · have place : decide (k < n + 1) = decide (k < n) := by
        rw [decide_eq_decide]
        omega
      have other : decide (n = k) = false := decide_eq_false here
      rw [place]
      cases bit : f n
      · simpa using ih
      · simpa [BitVec.getLsbD_twoPow, other] using ih

theorem byteOfBits_getLsbD (f : Nat → Bool) (k : Nat) (low : k < 8) : (byteOfBits f).getLsbD k = f k := by
  rw [byteOfBits, getLsbD_bitsUpTo f 8 k low, decide_eq_true low, Bool.true_and]

/-- Bit `i` of bytes that are given bit by bit. -/
theorem bitAt_bytesOfBits (f : Nat → Nat → Bool) (n i : Nat) (inside : i < 8 * n) :
    bitAt ((List.range n).map fun j => byteOfBits (f j)) i = f (i / 8) (i % 8) := by
  have byte : i / 8 < n := by omega
  rw [bitAt, byteAt, List.getD_eq_getElem?_getD, List.getElem?_map, List.getElem?_range byte]
  exact byteOfBits_getLsbD _ _ (Nat.mod_lt _ (by decide))

theorem bitAt_mergeBits (data : List Byte) (offset count len : Nat) (edgeFirst edgeLast : Byte) (i : Nat)
    (inside : i < 8 * len) : bitAt (mergeBits data offset count len edgeFirst edgeLast) i =
      if offset ≤ i ∧ i < offset + count then bitAt data (i - offset)
      else if i < 8 then edgeFirst.getLsbD (i % 8) else edgeLast.getLsbD (i % 8) := by
  have place : 8 * (i / 8) + i % 8 = i := Nat.div_add_mod i 8
  have firstByte : i / 8 = 0 ↔ i < 8 := by omega
  rw [mergeBits, bitAt_bytesOfBits _ len i inside]
  simp only [place, firstByte]

theorem bitAt_extractBits (raw : List Byte) (offset count i : Nat) (inside : i < 8 * ((count + 7) / 8)) :
    bitAt (extractBits raw offset count) i = if i < count then bitAt raw (offset + i) else false := by
  have place : 8 * (i / 8) + i % 8 = i := Nat.div_add_mod i 8
  rw [extractBits, bitAt_bytesOfBits _ (bitBytes count) i inside]
  simp only [Nat.add_assoc, place]
  by_cases within : i < count <;> simp [within]

/-! ### The accesses of a deposit or a store -/

theorem TableEntry.isBits_iff (e : TableEntry) : e.isBits = true ↔ e.kind = 1 := by simp [TableEntry.isBits]

theorem Part.workRange_of_serving (m : Part) (p : PortNo) (serving : (m.port p).activity = .serving) :
    m.workRange p =
      (tableNo (m.port p).service.table, (m.port p).service.index.toNat, (m.port p).service.count.toNat) := by
  unfold Part.workRange
  rw [serving]

theorem Part.workRange_of_work (m : Part) (p : PortNo) (w : Work) (noService : (m.port p).activity ≠ .serving)
    (work : (m.port p).run.work = some w) :
    m.workRange p = (tableNo w.order.localTable, w.order.localIndex.toNat, w.order.count.toNat) := by
  unfold Part.workRange
  split
  · next serving => exact absurd serving noService
  · rw [work]

/-- The range that a transaction works on is read from three fields of its port. -/
theorem Part.workRange_setPort (m : Part) (p : PortNo) (y : Port) (activity : y.activity = (m.port p).activity)
    (service : y.service = (m.port p).service) (run : y.run = (m.port p).run) :
    (m.setPort p y).workRange p = m.workRange p := by
  simp only [Part.workRange, Part.port_setPort, activity, service, run]

section Writes
variable (m : Part) (p : PortNo) (t : TableNo) (first count : Nat) (range : m.workRange p = (t, first, count))
include range

theorem Part.workSpan_of_range : m.workSpan p = (m.tableEntry t).span first count := by rw [Part.workSpan, range]

/-- In a WORDS table the words are written at once. -/
theorem Part.startWrites_of_words (words : (m.tableEntry t).kind ≠ 1) :
    m.startWrites p = m.setPort p { m.port p with
      access := some (.write ((m.tableEntry t).base.toNat + 2 * first)
        (((m.port p).dataHold.drop 5).take (2 * count)))
      memStep := .span } := by
  have noBits : (m.tableEntry t).isBits = false := Bool.eq_false_iff.2 (mt (TableEntry.isBits_iff _).1 words)
  simp only [Part.startWrites, Part.lastEdgeOrWrite, Part.startSpanWrite, m.workSpan_of_range p t first count range,
    range, noBits, Bool.false_and, Bool.false_eq_true, if_false, TableEntry.span, Part.onPort, Port.startAccess,
    Port.heldData]

variable (bits : (m.tableEntry t).kind = 1)
include bits

theorem Part.workSpan_of_bits : m.workSpan p =
    ((m.tableEntry t).base.toNat + first / 8, (first + count - 1) / 8 - first / 8 + 1) := by
  rw [m.workSpan_of_range p t first count range, TableEntry.span, if_pos ((TableEntry.isBits_iff _).2 bits)]

/-- In a BITS table the whole bytes are written. -/
theorem Part.startSpanWrite_of_bits :
    m.startSpanWrite p = m.setPort p { m.port p with
      access := some (.write ((m.tableEntry t).base.toNat + first / 8)
        (mergeBits ((m.port p).dataHold.drop 5) (first % 8) count ((first + count - 1) / 8 - first / 8 + 1)
          (m.port p).edgeFirst (m.port p).edgeLast))
      memStep := .span } := by
  simp only [Part.startSpanWrite, m.workSpan_of_bits p t first count range bits, range,
    (TableEntry.isBits_iff _).2 bits, if_true, Part.onPort, Port.startAccess, Port.heldData]

theorem Part.lastEdgeOrWrite_of_bits :
    m.lastEdgeOrWrite p =
      if needsLastEdge first count ((first + count - 1) / 8 - first / 8 + 1) then
        m.setPort p { m.port p with
          access := some (.read
            ((m.tableEntry t).base.toNat + first / 8 + ((first + count - 1) / 8 - first / 8 + 1) - 1) 1 [])
          memStep := .edgeLast }
      else m.startSpanWrite p := by
  simp only [Part.lastEdgeOrWrite, m.workSpan_of_bits p t first count range bits, range,
    (TableEntry.isBits_iff _).2 bits, Bool.true_and, Part.onPort, Port.startAccess]

theorem Part.startWrites_of_bits :
    m.startWrites p =
      if needsFirstEdge first count ((first + count - 1) / 8 - first / 8 + 1) then
        m.setPort p { m.port p with
          access := some (.read ((m.tableEntry t).base.toNat + first / 8) 1 []), memStep := .edgeFirst }
      else m.lastEdgeOrWrite p := by
  simp only [Part.startWrites, m.workSpan_of_bits p t first count range bits, range,
    (TableEntry.isBits_iff _).2 bits, Bool.true_and, Part.onPort, Port.startAccess]

end Writes

theorem needsFirstEdge_iff (first count len : Nat) :
    needsFirstEdge first count len = true ↔ first % 8 ≠ 0 ∨ (len = 1 ∧ (first + count) % 8 ≠ 0) := by
  simp [needsFirstEdge]

theorem needsLastEdge_iff (first count len : Nat) :
    needsLastEdge first count len = true ↔ len ≠ 1 ∧ (first + count) % 8 ≠ 0 := by
  simp [needsLastEdge]

/-- A granted deposit, and a granted store, begin their writes (R100, R118). -/
theorem Part.claimGranted_writes (m : Part) (p : PortNo)
    (writes : (m.port p).activity = .depositing ∨
      (m.port p).activity = .serving ∧ isStore (m.port p).service.kind = true) :
    m.claimGranted p = m.startWrites p := by
  unfold Part.claimGranted
  rcases writes with activity | ⟨activity, store⟩
  · simp only [activity]
  · have noFetch : isFetch (m.port p).service.kind = false := by
      simp only [isStore, Bool.or_eq_true, beq_iff_eq] at store
      rcases store with kind | kind <;> rw [kind] <;> rfl
    have noModify : ((m.port p).service.kind == kindModifyWord) = false := by
      simp only [isStore, Bool.or_eq_true, beq_iff_eq] at store
      rcases store with kind | kind <;> rw [kind] <;> rfl
    simp only [activity, noFetch, noModify, Bool.false_eq_true, if_false]

section EdgesRead
variable (m : Part) (p : PortNo) (raw : List Byte)

theorem Part.portAccessDone_edgeFirst (step : (m.port p).memStep = .edgeFirst) :
    m.portAccessDone p raw = (m.onPort p fun x => { x with edgeFirst := byteAt raw 0 }).lastEdgeOrWrite p := by
  unfold Part.portAccessDone
  rw [step]

theorem Part.portAccessDone_edgeLast (step : (m.port p).memStep = .edgeLast) :
    m.portAccessDone p raw = (m.onPort p fun x => { x with edgeLast := byteAt raw 0 }).startSpanWrite p := by
  unfold Part.portAccessDone
  rw [step]

end EdgesRead

/-- Settles O44: bits one by one; the writes of a transaction by its range and the edges it needs. -/
theorem bitWriteKeepsBitsOutsideRange : Obligations.BitWriteKeepsBitsOutsideRange := by
  refine ⟨fun data offset count len edgeFirst edgeLast i inside => ⟨by simp [mergeBits],
    bitAt_mergeBits data offset count len edgeFirst edgeLast i inside⟩,
    fun raw offset count i => ⟨by simp [extractBits, bitBytes], bitAt_extractBits raw offset count i⟩,
    fun m p t first count => ?_⟩
  intro x e addr len firstNeeded lastNeeded readLast writeAll writes
  have range : m.workRange p = (t, first, count) := by
    rcases writes with ⟨serving, -, rfl, rfl, rfl⟩ | ⟨depositing, w, work, rfl, rfl, rfl⟩
    · exact m.workRange_of_serving p serving
    · exact m.workRange_of_work p w (by rw [show (m.port p).activity = .depositing from depositing]; decide) work
  have granted : m.claimGranted p = m.startWrites p :=
    m.claimGranted_writes p (writes.symm.imp And.left fun h => ⟨h.1, h.2.1⟩)
  rw [granted]
  refine ⟨m.startWrites_of_words p t first count range, fun bits => ?_⟩
  have starts := m.startWrites_of_bits p t first count range bits
  have goesOn := m.lastEdgeOrWrite_of_bits p t first count range bits
  have ends := m.startSpanWrite_of_bits p t first count range bits
  have firstIff := needsFirstEdge_iff first count len
  have lastIff := needsLastEdge_iff first count len
  refine ⟨fun needed => starts.trans (if_pos (firstIff.2 needed)), fun no needed => ?_, fun no no' => ?_, fun raw => ?_⟩
  · exact (starts.trans (if_neg (mt firstIff.1 no))).trans (goesOn.trans (if_pos (lastIff.2 needed)))
  · exact (starts.trans (if_neg (mt firstIff.1 no))).trans ((goesOn.trans (if_neg (mt lastIff.1 no'))).trans ends)
  let readFirst := m.setPort p { x with edgeFirst := byteAt raw 0 }
  have rangeFirst : readFirst.workRange p = (t, first, count) :=
    (m.workRange_setPort p { x with edgeFirst := byteAt raw 0 } rfl rfl rfl).trans range
  have rangeLast : (m.setPort p { x with edgeLast := byteAt raw 0 }).workRange p = (t, first, count) :=
    (m.workRange_setPort p { x with edgeLast := byteAt raw 0 } rfl rfl rfl).trans range
  have goesOnFirst := readFirst.lastEdgeOrWrite_of_bits p t first count rangeFirst bits
  have endsFirst := readFirst.startSpanWrite_of_bits p t first count rangeFirst bits
  have endsLast := Part.startSpanWrite_of_bits _ p t first count rangeLast bits
  refine ⟨fun step needed => ?_, fun step no => ?_, fun step => ?_⟩
  · rw [m.portAccessDone_edgeFirst p raw step]
    refine (goesOnFirst.trans (if_pos (lastIff.2 needed))).trans ?_
    simp only [readFirst, Part.port_setPort, Part.setPort_setPort]
    rfl
  · rw [m.portAccessDone_edgeFirst p raw step]
    refine ((goesOnFirst.trans (if_neg (mt lastIff.1 no))).trans endsFirst).trans ?_
    simp only [readFirst, Part.port_setPort, Part.setPort_setPort]
    rfl
  · rw [m.portAccessDone_edgeLast p raw step]
    refine endsLast.trans ?_
    simp only [Part.port_setPort, Part.setPort_setPort]
    rfl

end Sys2Proof.Machine

/-! PROOF. Answered bursts, and what the end of an access brings (R90, R100, R117 to R119, R144, R154, R159, R168). -/

namespace Sys2Proof.Machine

/-! ### An answered burst -/

/-- The answer of the burst in progress: its bytes go to memory, and its requester goes on. -/
theorem exec_burstAnswered (s : State) (answer : BusAnswer) (b : Burst) (released : s.window.resetAsserted = false)
    (inProgress : s.part.bus = some b) (named : b.event = answer.event) :
    exec (.burstAnswered answer) s =
      .next { s.ends (s.part.tick.burstDone s.window.base answer.data.toList) with
        memory := s.part.memoryDone s.memory } := by
  have awaited : s.part.awaits answer.event = true := by simp [Part.awaits, inProgress, named]
  have event := s.onPart_ends (fun base m => m.burstDone base answer.data.toList) released
  have memory (m : Part) (mem : List Host.Cell) : (s.ends m).setMemory mem = { s.ends m with memory := mem } :=
    if_neg (by rw [show (s.ends m).window = s.window from rfl, released]; decide)
  exact congrArg Host.Outcome.next ((if_pos awaited).trans ((congrArg (fun t : State => t.setMemory _) event).trans
    (memory _ _)))

section Answers
variable (m : Part) (base : Word) (data : List Byte) (b : Burst) (inProgress : m.bus = some b)
  (wanted : b.discarded = false)
include inProgress wanted

theorem Part.burstDone_port (p : PortNo) (who : b.who = .port p) :
    m.burstDone base data = ({ m with bus := none } : Part).portBurstDone p b.len data := by
  unfold Part.burstDone
  rw [inProgress]
  simp only [wanted, who, Bool.false_eq_true, if_false]

theorem Part.burstDone_sweep (who : b.who = .sweep) :
    m.burstDone base data = ({ m with bus := none } : Part).sweepBurstDone base b.len data := by
  unfold Part.burstDone
  rw [inProgress]
  simp only [wanted, who, Bool.false_eq_true, if_false]

theorem Part.burstDone_writer (who : b.who = .writer) :
    m.burstDone base data = ({ m with bus := none } : Part).writerDone b.len := by
  unfold Part.burstDone
  rw [inProgress]
  simp only [wanted, who, Bool.false_eq_true, if_false]

/-- The burst of a port's access writes what the access writes. -/
theorem Part.memoryDone_port (mem : List Host.Cell) (p : PortNo) (a : Access) (who : b.who = .port p)
    (access : (m.port p).access = some a) : m.memoryDone mem = Memory.writeBytes mem b.addr (a.burstWrite b.len) := by
  rw [Part.memoryDone, inProgress]
  simp only [Part.burstBytes, wanted, who, access, Bool.false_eq_true, if_false, Option.map_some, Option.getD_some]

/-- A burst that reads leaves memory as it is. -/
theorem Part.memoryDone_sweepRead (mem : List Host.Cell) (addr left : Nat) (got : List Byte) (who : b.who = .sweep)
    (access : m.sweepAccess = some (.read addr left got)) : m.memoryDone mem = mem := by
  rw [Part.memoryDone, inProgress]
  simp only [Part.burstBytes, wanted, who, access, Bool.false_eq_true, if_false, Option.map_some, Option.getD_some,
    Access.burstWrite]
  rfl

end Answers

/-- What an answered burst leaves of a port's access (R154). -/
theorem Part.portBurstDone_eq (m : Part) (p : PortNo) (len : Nat) (data : List Byte) (a : Access)
    (access : (m.port p).access = some a) :
    m.portBurstDone p len data =
      if (a.afterBurst len data).isDone then
        (m.setPort p { m.port p with access := none }).portAccessDone p (a.afterBurst len data).bytesRead
      else m.setPort p { m.port p with access := some (a.afterBurst len data) } := by
  unfold Part.portBurstDone
  simp only [access]
  rfl

theorem Part.sweepBurstDone_eq (m : Part) (base : Word) (len : Nat) (data : List Byte) (a : Access)
    (access : m.sweepAccess = some a) :
    m.sweepBurstDone base len data =
      if (a.afterBurst len data).isDone then
        if m.engine = .loading then
          ({ m with sweepAccess := none } : Part).loaderReadDone base (a.afterBurst len data).bytesRead
        else ({ m with sweepAccess := none } : Part).sweepReadDone base (a.afterBurst len data).bytesRead
      else { m with sweepAccess := some (a.afterBurst len data) } := by
  unfold Part.sweepBurstDone
  simp only [access]

theorem Access.isDone_afterBurst_read (addr left len : Nat) (got data : List Byte) :
    ((Access.read addr left got).afterBurst len data).isDone = true ↔ left ≤ len := by
  simp [Access.afterBurst, Access.isDone, Nat.sub_eq_zero_iff_le]

theorem Access.isDone_afterBurst_write (addr len : Nat) (bytes data : List Byte) :
    ((Access.write addr bytes).afterBurst len data).isDone = true ↔ bytes.length ≤ len := by
  simp [Access.afterBurst, Access.isDone]

/-- What an answered burst of the exchange writer leaves of the queue (R159). -/
theorem Part.writerDone_eq (m : Part) (len : Nat) (piece : Machine.Piece) (more : List Machine.Piece) (rest : List Entry)
    (queue : m.xq = ⟨piece :: more⟩ :: rest) :
    m.writerDone len = { m with xq :=
      if piece.bytes.length ≤ len then (if more = [] then rest else ⟨more⟩ :: rest)
      else ⟨⟨piece.addr + len, piece.bytes.drop len⟩ :: more⟩ :: rest } := by
  unfold Part.writerDone
  rw [queue]
  by_cases ends : piece.bytes.length ≤ len <;> simp [Entry.afterBurst, ends]

/-! ### Reads of a transaction, and the end of its accesses -/

theorem TableEntry.span_eq (e : TableEntry) (first count : Nat) : e.span first count =
    if e.kind = 1 then (e.base.toNat + first / 8, (first + count - 1) / 8 - first / 8 + 1)
    else (e.base.toNat + 2 * first, 2 * count) := by
  simp [TableEntry.span, TableEntry.isBits]

section Reads
variable (m : Part) (p : PortNo)

theorem Part.claimGranted_of_preparing (preparing : (m.port p).activity = .preparing) :
    m.claimGranted p = m.onPort p fun x =>
      x.startAccess (.read (m.workSpan p).1 (m.workSpan p).2 []) .read := by
  unfold Part.claimGranted
  rw [preparing]

theorem Part.claimGranted_of_fetch (serving : (m.port p).activity = .serving)
    (fetch : isFetch (m.port p).service.kind = true) :
    m.claimGranted p = m.onPort p fun x =>
      x.startAccess (.read (m.workSpan p).1 (m.workSpan p).2 []) .read := by
  unfold Part.claimGranted
  rw [serving]
  exact if_pos fetch

theorem Part.claimGranted_of_modify (serving : (m.port p).activity = .serving)
    (modify : (m.port p).service.kind = 0x15) :
    m.claimGranted p = m.onPort p fun x =>
      x.startAccess (.read (m.workSpan p).1 (m.workSpan p).2 []) .modifyRead := by
  have noFetch : ¬isFetch (m.port p).service.kind = true := by
    rw [modify]
    decide
  unfold Part.claimGranted
  rw [serving]
  exact (if_neg noFetch).trans (if_pos (by rw [modify]; decide))

/-- The port with its claim released. -/
theorem Part.releaseClaim_eq : m.releaseClaim p = { m.setPort p (m.port p) with inbox := m.inbox ++ [.leave p] } := by
  rw [Part.setPort_port_self]
  rfl

/-- The data of a store order has been read (R90). -/
theorem Part.portAccessDone_captured (raw : List Byte) (w : Work) (step : (m.port p).memStep = .read)
    (preparing : (m.port p).activity = .preparing) (work : (m.port p).run.work = some w) :
    m.portAccessDone p raw = ((m.releaseClaim p).formRequest p w.order
      (if isBitKind w.order.kind then extractBits raw (w.order.localIndex.toNat % 8) w.order.count.toNat
        else raw)).startAttempt p := by
  unfold Part.portAccessDone
  rw [step, preparing]
  simp only [Part.captured, work]

theorem Part.portAccessDone_fetched (raw : List Byte) (step : (m.port p).memStep = .read)
    (serving : (m.port p).activity = .serving) : m.portAccessDone p raw = m.fetchDone p raw := by
  unfold Part.portAccessDone
  rw [step, serving]

theorem Part.portAccessDone_deposited (raw : List Byte) (step : (m.port p).memStep = .span)
    (depositing : (m.port p).activity = .depositing) :
    m.portAccessDone p raw = (m.releaseClaim p).endRun p outcomeOk 0 := by
  unfold Part.portAccessDone
  rw [step, depositing]

theorem Part.portAccessDone_stored (raw : List Byte)
    (written : ((m.port p).memStep = .span ∧ (m.port p).activity = .serving) ∨ (m.port p).memStep = .modifyWrite) :
    m.portAccessDone p raw = (m.onPort p fun x => { x with memStep := .none }).tellClaimUnit (.stored p) := by
  unfold Part.portAccessDone
  rcases written with ⟨step, serving⟩ | step
  · rw [step, serving]
  · rw [step]

theorem Part.portAccessDone_modified (raw : List Byte) (step : (m.port p).memStep = .modifyRead) :
    m.portAccessDone p raw = m.modifyReadDone p raw := by
  unfold Part.portAccessDone
  rw [step]

end Reads

/-- The request body of a store order (Table 5-3). -/
theorem requestBody_of_store (o : Order) (data : List Byte) (store : isStore o.kind = true) :
    requestBody o data = [o.remoteTable] ++ halfBytes o.remoteIndex ++ halfBytes o.count ++ data := by
  have noFetch : isFetch o.kind = false := by
    simp only [isStore, Bool.or_eq_true, beq_iff_eq] at store
    rcases store with kind | kind <;> rw [kind] <;> rfl
  simp only [requestBody, noFetch, store, Bool.false_eq_true, if_false, if_true]

/-- A store order moves bits exactly when it is STORE_BITS. -/
theorem isBitKind_of_store (k : Byte) (store : isStore k = true) : isBitKind k = true ↔ k = 0x14 := by
  rw [isBitKind_iff]
  simp only [isStore, Bool.or_eq_true, beq_iff_eq, kindStoreWords, kindStoreBits] at store
  rcases store with kind | kind <;> rw [kind] <;> decide

/-- Settles O45: a burst's answer by its requester and by what it leaves of the access; the end of an access by its step.
-/
theorem answeredBurstAdvancesAccess : Obligations.AnsweredBurstAdvancesAccess := by
  refine ⟨fun s answer released => ⟨fun p b a inProgress who wanted named access => ?_,
    fun b addr left got inProgress who wanted named access => ?_, fun piece more rest len queue inProgress => ?_⟩,
    fun m p => ?_⟩
  · intro m goesOn ends data
    have event := exec_burstAnswered s answer b released inProgress named
    have memory := s.part.memoryDone_port b inProgress wanted s.memory p a who access
    have done := (s.part.tick.burstDone_port s.window.base answer.data.toList b inProgress wanted p who).trans
      (m.portBurstDone_eq p b.len answer.data.toList a access)
    rw [memory, done] at event
    refine ⟨fun addr left got isRead => ?_, fun addr bytes isWrite => ?_⟩
    · subst isRead
      refine ⟨fun more => event.trans ?_, fun last => event.trans ?_⟩
      · rw [if_neg (mt (Access.isDone_afterBurst_read _ _ _ _ _).1 (by omega))]
        rfl
      · rw [if_pos ((Access.isDone_afterBurst_read _ _ _ _ _).2 last)]
        rfl
    · subst isWrite
      refine ⟨fun more => event.trans ?_, fun last => event.trans ?_⟩
      · rw [if_neg (mt (Access.isDone_afterBurst_write _ _ _ _).1 (by omega))]
        rfl
      · rw [if_pos ((Access.isDone_afterBurst_write _ _ _ _).2 last)]
        rfl
  · intro m data
    have event := exec_burstAnswered s answer b released inProgress named
    have memory := s.part.memoryDone_sweepRead b inProgress wanted s.memory addr left got who access
    have done := (s.part.tick.burstDone_sweep s.window.base answer.data.toList b inProgress wanted who).trans
      (m.sweepBurstDone_eq s.window.base b.len answer.data.toList _ access)
    rw [memory, done] at event
    refine ⟨fun more => event.trans ?_, fun last loading => event.trans ?_, fun last other => event.trans ?_⟩
    · rw [if_neg (mt (Access.isDone_afterBurst_read _ _ _ _ _).1 (by omega))]
      rfl
    all_goals rw [if_pos ((Access.isDone_afterBurst_read _ _ _ _ _).2 last)]
    · rw [if_pos (show m.engine = .loading from loading)]
      rfl
    · rw [if_neg (show m.engine ≠ .loading from other)]
      rfl
  · intro written
    have event := exec_burstAnswered s answer _ released inProgress rfl
    have done := (s.part.tick.burstDone_writer s.window.base answer.data.toList _ inProgress rfl rfl).trans
      (Part.writerDone_eq { s.part.tick with bus := none } len piece more rest queue)
    have memory : s.part.memoryDone s.memory = Memory.writeBytes s.memory piece.addr (piece.bytes.take len) := by
      rw [Part.memoryDone, inProgress]
      simp [Part.burstBytes, queue]
    have becomes (xq : List Entry) (left : (if piece.bytes.length ≤ len then (if more = [] then rest else ⟨more⟩ :: rest)
        else ⟨⟨piece.addr + len, piece.bytes.drop len⟩ :: more⟩ :: rest) = xq) : written xq := by
      rw [left] at done
      rw [done, memory] at event
      exact event
    refine ⟨fun long => becomes _ (if_neg (by omega)), fun short next => becomes _ ((if_pos short).trans (if_neg next)),
      fun short last => becomes _ ((if_pos short).trans (if_pos last))⟩
  · intro x v r range reads served told echo
    have span (t : TableNo) (first count : Nat) (work : m.workRange p = (t, first, count)) :
        m.workSpan p = range t first count := by
      rw [m.workSpan_of_range p t first count work]
      exact TableEntry.span_eq _ first count
    have service (serving : x.activity = .serving) : m.workSpan p = served :=
      span _ _ _ (m.workRange_of_serving p serving)
    refine ⟨fun w preparing work => ?_, fun serving fetch => ?_, fun serving modify => ?_, fun raw => ⟨?_, ?_, ?_, ?_, ?_⟩⟩
    · have granted := m.claimGranted_of_preparing p preparing
      rw [span _ _ _ (m.workRange_of_work p w (by rw [show (m.port p).activity = _ from preparing]; decide) work)]
        at granted
      exact granted
    · have granted := m.claimGranted_of_fetch p serving fetch
      rw [service serving] at granted
      exact granted
    · have granted := m.claimGranted_of_modify p serving modify
      rw [service serving] at granted
      exact granted
    · intro w step preparing work store role o data
      have hasRun : x.hasRun = true := by simp [Port.hasRun, show x.run.work = some w from work]
      have read : (if isBitKind o.kind then extractBits raw (o.localIndex.toNat % 8) o.count.toNat else raw) = data :=
        if_congr (isBitKind_of_store o.kind store) rfl rfl
      let formed : Port := { x with
        txBuffer := frameProper o.station o.kind r.tag
          ([o.remoteTable] ++ halfBytes o.remoteIndex ++ halfBytes o.count ++ data) }
      have forms : (m.releaseClaim p).formRequest p o data = (m.releaseClaim p).setPort p formed := by
        rw [Part.formRequest, requestBody_of_store o data store]
        rfl
      rw [m.portAccessDone_captured p raw w step preparing work, read, forms,
        Part.startAttempt_eq ((m.releaseClaim p).setPort p formed) p (by rw [Part.port_setPort]; exact hasRun) role,
        Part.port_setPort, Part.setPort_setPort]
      rfl
    · intro w step depositing work
      rw [m.portAccessDone_deposited p raw step depositing, Part.endRun_eq (m.releaseClaim p) p w outcomeOk 0 work]
      rfl
    · intro step serving
      rw [m.portAccessDone_fetched p raw step serving, Part.fetchDone, m.releaseClaim_eq p]
      exact congrArg (fun data => Part.reply _ p (echo ++ data)) (if_congr (isBitKind_iff _) rfl rfl)
    · exact m.portAccessDone_stored p raw
    · intro step serving
      rw [m.portAccessDone_modified p raw step, Part.modifyReadDone, service serving]
      rfl

end Sys2Proof.Machine

/-! PROOF. The rotation of the bus, and bus errors (R154, R155, R159, R161, R162, R176, Table 9-5). -/

namespace Sys2Proof.Machine

/-! ### The rotation (R155) -/

/-- The circle of the bus. -/
def busCircle : List Requester := [.sweep, .port 0, .port 1, .port 2, .port 3, .writer]

/-- The circle cut at a place runs from that place. -/
theorem circle_of_cut (r : Requester) (n : Nat) (cut : (busCircle.drop n).head? = some r) :
    busCircle.drop n ++ busCircle.take n = r.circle := by
  rcases n with _ | _ | _ | _ | _ | _ | n
  iterate 6
    obtain rfl := Option.some.inj cut
    rfl
  have beyond : busCircle.drop (n + 6) = [] := List.drop_eq_nil_of_le (Nat.le_add_left 6 n)
  rw [beyond] at cut
  cases cut

/-- The first requester of a list with a pending burst, behind requesters that have none. -/
theorem Part.firstPending_append (m : Part) (before after : List Requester) (who : Requester) (b : Nat × Nat)
    (idle : ∀ w ∈ before, m.pendingBurst w = none) (pending : m.pendingBurst who = some b) :
    m.firstPending (before ++ who :: after) = some (who, b) := by
  induction before with
  | nil => rw [List.nil_append, Part.firstPending, pending]
  | cons w before ih =>
    rw [List.cons_append, Part.firstPending, idle w (List.mem_cons_self ..)]
    exact ih fun v mem => idle v (List.mem_cons_of_mem w mem)

theorem Part.firstPending_of_none (m : Part) (l : List Requester) (idle : ∀ who, m.pendingBurst who = none) :
    m.firstPending l = none := by
  induction l with
  | nil => rfl
  | cons w l ih => rw [Part.firstPending, idle w, ih]

theorem Part.grantBus_of_noPending (m : Part) (idle : ∀ who, m.pendingBurst who = none) : m.grantBus = m := by
  unfold Part.grantBus
  split
  · rfl
  · rw [m.firstPending_of_none _ idle]

/-- A free bus goes to the first requester of the circle with a pending burst. -/
theorem Part.grantBus_of_first (m : Part) (before after : List Requester) (who : Requester) (addr len : Nat)
    (free : m.bus = none) (circle : m.pointer.circle = before ++ who :: after)
    (idle : ∀ w ∈ before, m.pendingBurst w = none) (pending : m.pendingBurst who = some (addr, len)) :
    m.grantBus = { m with bus := some ⟨who, addr, len, false, m.eventNo⟩, pointer := who.next } := by
  unfold Part.grantBus
  rw [free, circle, m.firstPending_append before after who _ idle pending]

/-- Settles O47: the pending burst of each requester by its access; the grant by the cut of the circle at the pointer. -/
theorem busIsGrantedInRotation : Obligations.BusIsGrantedInRotation := by
  intro m
  refine ⟨?_, fun busy => ?_, fun free idle => m.grantBus_of_noPending idle, ?_⟩
  · intro burst follows
    have access (who : Requester) (access : Option Access) (pends : m.pendingBurst who = access.map Access.burst) :
        follows who access :=
      ⟨fun none => by rw [pends, none]; rfl, fun addr left got reads => by rw [pends, reads]; rfl,
        fun addr bytes writes => by rw [pends, writes]; rfl⟩
    refine ⟨access _ _ rfl, fun p => access _ _ rfl, fun empty => ?_, fun piece more rest queue => ?_⟩
    · rw [Part.pendingBurst, empty]
      rfl
    · rw [Part.pendingBurst, queue]
      rfl
  · obtain ⟨b, inProgress⟩ := Option.ne_none_iff_exists'.1 busy
    exact m.grantBus_of_busy b inProgress
  · intro before after who addr len free ⟨u, v, split, head, order⟩ idle pending
    have front : busCircle.take u.length = u := by rw [show busCircle = u ++ v from split, List.take_left]
    have back : busCircle.drop u.length = v := by rw [show busCircle = u ++ v from split, List.drop_left]
    have circle : m.pointer.circle = before ++ who :: after := by
      rw [← order, ← circle_of_cut m.pointer u.length (by rw [back]; exact head), front, back]
    rw [m.grantBus_of_first before after who addr len free circle idle pending]
    match who with
    | .sweep | .port 0 | .port 1 | .port 2 | .port 3 | .writer => rfl

/-! ### The entry to FAULTED (R162, R176) -/

theorem Part.table_map (m : Part) (f : TableRecord → TableRecord) (u : TableNo) :
    ({ m with tables := m.tables.map f } : Part).table u = f (m.table u) := by
  simp [Part.table, Vector.get]

/-- In FAULTED there is nothing to do: no internal work, and no burst to grant. -/
theorem Part.finish_enterFaulted (m : Part) (base : Word) (code : FaultCode) (addr : Nat) :
    Part.finish base (m.enterFaulted code addr) = m.enterFaulted code addr := by
  have settled := (m.enterFaulted code addr).settled_of_noEntries base rfl rfl fun k => LoadPhase.noConfusion
  have port (p : PortNo) : (m.enterFaulted code addr).port p = (m.port p).faulted := m.port_onPorts p Port.faulted
  rw [Part.finish_of_settled base _ settled]
  refine Part.grantBus_of_noPending _ fun who => ?_
  match who with
  | .sweep => rfl
  | .port p =>
    rw [Part.pendingBurst, port]
    rfl
  | .writer => rfl

/-- The commands of a bus error (R161). -/
theorem exec_busFails (s : State) (c : Instr) (h : c = .busError ∨ c = .busAnswerTimeout) :
    exec c s = .next s.burstFails := by
  rcases h with rfl | rfl <;> rfl

/-- The part and the window once the burst in progress has failed. -/
theorem State.burstFails_eq (s : State) (released : s.window.resetAsserted = false) :
    s.burstFails.part = Part.finish s.window.base s.part.tick.burstFailed ∧ s.burstFails.window = s.window := by
  have fields := (s.onPart fun _ => Part.burstFailed).setMemory_fields (s.part.tick.memoryCut s.memory)
  exact ⟨fields.2.2.1.trans (s.onPart_part _ released), fields.1.trans (s.onPart_fields _).1⟩

theorem Part.burstFailed_exchange (m : Part) (b : Burst) (inProgress : m.bus = some b) (wanted : b.discarded = false)
    (who : b.who = .sweep ∨ b.who = .writer) :
    m.burstFailed = ({ m with bus := none } : Part).enterFaulted
      (if b.who = .writer then .exchangeWrite else if m.engine = .loading then .loadRead else .sweepRead) b.addr := by
  unfold Part.burstFailed
  rw [inProgress]
  rcases who with who | who <;> simp [wanted, who]

theorem Part.burstFailed_port (m : Part) (b : Burst) (p : PortNo) (inProgress : m.bus = some b)
    (wanted : b.discarded = false) (who : b.who = .port p) (outstanding : (m.port p).access.isSome = true) :
    m.burstFailed = ({ m with bus := none } : Part).portBusError p := by
  unfold Part.burstFailed
  rw [inProgress]
  simp only [wanted, who, Bool.false_eq_true, if_false]
  exact if_pos outstanding

/-! ### The end of a service or a run in a bus error (Table 9-5) -/

/-- The port has lost its access and released its claim. -/
def Part.accessLost (m : Part) (p : PortNo) : Part :=
  ({ m with inbox := m.inbox ++ [.leave p] } : Part).setPort p { m.port p with access := none, memStep := .none }

theorem Part.portBusError_serving (m : Part) (p : PortNo) (serving : (m.port p).activity = .serving) :
    m.portBusError p = ((m.accessLost p).fillServiceFault p .busError 8).refuse p 8 := by
  unfold Part.portBusError
  rw [serving]
  rfl

theorem Part.portBusError_run (m : Part) (p : PortNo)
    (carries : (m.port p).activity = .preparing ∨ (m.port p).activity = .depositing) :
    m.portBusError p = ((m.accessLost p).fillRunFault p .busError 0).endRun p 0x15 0 := by
  unfold Part.portBusError
  rcases carries with activity | activity
  · rw [activity]
    rfl
  · rw [activity]
    rfl

/-- A service that is refused: the refusal is held or sent, or, for a broadcast, the service only ends (R112, R122,
R124). -/
theorem Part.refuse_setPort (m : Part) (p : PortNo) (x : Port) (reason : Byte) :
    let y : Port := { x with
      tallies := { x.tallies with refusalsSent := satHalf x.tallies.refusalsSent }, memStep := .none }
    let answer := frameProper x.service.station 0x7E x.service.tag [x.service.kind, reason]
    let z : Port := { y with
      answerBuffer := answer
      replay := if isTransient reason then none else some ⟨x.service.kind, x.service.tag, x.service.check, answer⟩
      service := { x.service with result := .refusal reason } }
    (m.setPort p x).refuse p reason = m.setPort p
      (if x.service.broadcast = true then { y with activity := .idle }
      else if x.answerDelay = true then { z with activity := .turnaround }
      else { z with
        activity := .replying, tx := some .answer, silence := false
        receiver := { state := .hunt, buffer := [], bodyLength := none, check := 0xFFFF } }) := by
  intro y answer z
  rw [Part.refuse, Part.raise_setPort, Part.port_setPort]
  dsimp only
  by_cases broadcast : x.service.broadcast = true
  · rw [if_pos broadcast, if_pos broadcast, Part.endBroadcast, Part.onPort_setPort]
    rfl
  · rw [if_neg broadcast, if_neg broadcast, Part.onPort_setPort, Part.enterTurnaround_eq, Part.port_setPort,
      Part.setPort_setPort]
    by_cases delay : x.answerDelay = true
    · rw [if_pos delay]
      exact congrArg (m.setPort p) (if_pos delay)
    · rw [if_neg delay]
      exact congrArg (m.setPort p) (if_neg delay)

theorem Part.fillServiceFault_setPort (m : Part) (p : PortNo) (x : Port) (kind : FaultKind) (reason : Byte) :
    (m.setPort p x).fillServiceFault p kind reason = m.setPort p { x with
      fault := ⟨kind, 0xFF, x.service.station, x.service.kind, x.service.tag, reason, m.sweep.count⟩ } := by
  rw [Part.fillServiceFault, Part.onPort_setPort]
  rfl

/-- Settles O46: an exchange-area burst by the entry to FAULTED, a port's burst by the end of its transaction. -/
theorem busErrorsFaultEngineOrEndRun : Obligations.BusErrorsFaultEngineOrEndRun := by
  refine ⟨fun s c b fails released inProgress wanted who => ?_,
    fun s c p b a fails released inProgress who wanted access => ?_⟩
  · let code : FaultCode :=
      if b.who = .writer then .exchangeWrite else if s.part.engine = .loading then .loadRead else .sweepRead
    let faulted := ({ s.part.tick with bus := none } : Part).enterFaulted code b.addr
    obtain ⟨part, window⟩ := s.burstFails_eq released
    rw [s.part.tick.burstFailed_exchange b inProgress wanted who, Part.finish_enterFaulted] at part
    refine ⟨s.burstFails, exec_busFails s c fails, ?_⟩
    have port (p : PortNo) : faulted.port p = (s.part.port p).faulted := Part.port_onPorts _ p Port.faulted
    have table (u : TableNo) : faulted.table u = { s.part.table u with holdState := .free } :=
      s.part.table_map TableRecord.faulted u
    have whole : s.burstFails.part = faulted := part
    rw [whole, window]
    refine ⟨rfl, rfl, rfl, rfl, rfl, rfl, rfl, rfl, rfl, rfl, rfl, rfl, rfl, rfl, rfl, fun p => ?_, fun u => ⟨?_, table u⟩,
      rfl, rfl⟩
    · rw [port p]
      exact ⟨by simp [faulted, Part.queue, Part.enterFaulted, Vector.get], rfl, rfl, rfl, rfl, rfl, rfl, rfl, rfl, rfl, rfl⟩
    · simp [faulted, Part.claimList, Part.enterFaulted, Vector.get]
  · intro x v r becomes
    obtain ⟨part, window⟩ := s.burstFails_eq released
    have outstanding : (s.part.tick.port p).access.isSome = true := by
      rw [show s.part.tick.port p = s.part.port p from rfl, access]
      rfl
    rw [s.part.tick.burstFailed_port b p inProgress wanted who outstanding] at part
    have ends (y : Port) (jobs : List Job) (result : ({ s.part.tick with bus := none } : Part).portBusError p =
        { s.part.tick.setPort p y with bus := none, inbox := s.part.inbox ++ [.leave p], jobs := jobs }) :
        becomes y jobs := by
      rw [result] at part
      exact ⟨s.burstFails, exec_busFails s c fails, window, part⟩
    let lost : Part := { s.part.tick with bus := none, inbox := s.part.inbox ++ [.leave p] }
    refine ⟨fun w carries work => ends _ _ ?_, fun serving => ?_⟩
    · have carried : x.run.work = some w := work
      rw [Part.portBusError_run { s.part.tick with bus := none } p carries,
        show Part.accessLost { s.part.tick with bus := none } p = lost.setPort p x from rfl,
        Part.fillRunFault_setPort lost p carried,
        Part.endRun_setPort lost p (x := { x with fault := lost.runFault w x.run.tag .busError 0 }) carried]
      rfl
    · intro y z
      have refused := (Part.portBusError_serving { s.part.tick with bus := none } p serving).trans
        ((congrArg (fun k : Part => k.refuse p 8) (lost.fillServiceFault_setPort p x .busError 8)).trans
          (lost.refuse_setPort p _ 8))
      refine ⟨fun broadcast => ends _ _ (refused.trans ?_), fun single delay => ends _ _ (refused.trans ?_),
        fun single noDelay => ends _ _ (refused.trans ?_)⟩
      · rw [if_pos (show x.service.broadcast = true from broadcast)]
        rfl
      · rw [if_neg (show ¬x.service.broadcast = true by rw [show x.service.broadcast = false from single]; decide),
          if_pos (show x.answerDelay = true from delay)]
        rfl
      · rw [if_neg (show ¬x.service.broadcast = true by rw [show x.service.broadcast = false from single]; decide),
          if_neg (show ¬x.answerDelay = true by rw [show x.answerDelay = false from noDelay]; decide)]
        rfl

end Sys2Proof.Machine

/-! PROOF. What a completion queues and delivers, and the tasks of a delivery tree (R20, R23, R24, R33 to R37). -/

namespace Sys2Proof.Machine

theorem Part.setQueue_setQueue (m : Part) (p : PortNo) (q r : List SlotNo) :
    (m.setQueue p q).setQueue p r = m.setQueue p r := by
  simp [Part.setQueue]

/-! ### A completion -/

/-- A slot that has moved on leaves its queue, and stands at the tail when it is QUEUED again (R41). -/
theorem Part.requeue_setSlot (m : Part) (n : SlotNo) (y : Slot) :
    (m.setSlot n y).requeue n = (m.setSlot n y).setQueue y.order.portNo
      ((m.queue y.order.portNo).filter (fun k => k != n) ++ (if y.state = .queued then [n] else [])) := by
  have slot : (m.setSlot n y).slot n = y := Part.slot_setSlot m n y
  have unqueued : (m.setSlot n y).unqueue n = (m.setSlot n y).setQueue y.order.portNo
      ((m.queue y.order.portNo).filter fun k => k != n) := by
    rw [Part.unqueue, slot]
    rfl
  rw [Part.requeue, unqueued, slot]
  by_cases queued : y.state = .queued
  · rw [if_pos queued, if_pos queued, Part.queue_setQueue, Part.setQueue_setQueue]
  · rw [if_neg queued, if_neg queued, List.append_nil]

theorem Part.notifySlot_eq (m : Part) (notify : Bool) :
    m.notifySlot notify = { m with causes := if notify then m.causes ||| 1 else m.causes } := by
  cases notify <;> rfl

/-- What a completion leaves: the slot after it, its queue, one entry and SLOT_NOTIFY (R20 to R24). -/
theorem Part.complete_eq (m : Part) (base : Word) (n : SlotNo) (c : Completion) :
    let y := completedSlot (m.slot n) c m.sweep.count
    m.complete base n c = { (m.setSlot n y).setQueue y.order.portNo
        ((m.queue y.order.portNo).filter (fun k => k != n) ++ (if y.state = .queued then [n] else [])) with
      xq := m.xq ++ [completionEntry base n y]
      causes := if y.order.notify then m.causes ||| 1 else m.causes } := by
  intro y
  have moved : (m.onSlot n fun x => completedSlot x c m.sweep.count).requeue n = _ := m.requeue_setSlot n y
  have slot (q : List SlotNo) : ((m.setSlot n y).setQueue y.order.portNo q).slot n = y := Part.slot_setSlot m n y
  rw [Part.complete, moved, slot, Part.notifySlot_eq]
  rfl

theorem Part.slot_complete (m : Part) (base : Word) (n : SlotNo) (c : Completion) :
    (m.complete base n c).slot n = completedSlot (m.slot n) c m.sweep.count := by
  rw [Part.complete_eq]
  exact Part.slot_setSlot m n _

/-! ### The delivery to the followers (R33 to R37) -/

/-- A trigger leaves every slot's order, and whether it is part-owned, as they are, and the delivery tree. -/
theorem Part.trigger_keeps (m : Part) (n k : SlotNo) :
    ((m.trigger n).slot k).order = (m.slot k).order ∧
      ((m.trigger n).slot k).state.partOwned = (m.slot k).state.partOwned := by
  by_cases taken : (m.slot n).state = .taken
  · by_cases same : k = n
    · subst same
      rw [m.slot_trigger_of_taken k taken, taken]
      exact ⟨rfl, rfl⟩
    · rw [(m.trigger_others_of_taken n taken).1 k same]
      exact ⟨rfl, rfl⟩
  by_cases waits : (m.slot n).state = .queued ∨ (m.slot n).state = .active
  · rw [m.trigger_of_waiting n waits]
    by_cases same : n = k
    · subst same
      split
      · rw [Part.slot_onSlot]
        exact ⟨rfl, rfl⟩
      · rw [Part.slot_onSlot]
        exact ⟨rfl, rfl⟩
    · split
      · rw [Part.slot_onSlot_of_ne m n k _ same]
        exact ⟨rfl, rfl⟩
      · rw [Part.slot_onSlot_of_ne m n k _ same]
        exact ⟨rfl, rfl⟩
  · rw [m.trigger_of_hostOwned n (by cases state : (m.slot n).state <;> simp_all [SlotState.partOwned])]
    exact ⟨rfl, rfl⟩

theorem Part.trigger_tree (m : Part) (n : SlotNo) : (m.trigger n).tree = m.tree := by
  unfold Part.trigger
  split
  · unfold Part.placeTriggered
    dsimp only
    split <;> rfl
  · split <;> rfl
  · split <;> rfl
  all_goals rfl

theorem Part.triggerAll_tree (l : List SlotNo) (m : Part) : (l.foldl Part.trigger m).tree = m.tree := by
  induction l generalizing m with
  | nil => rfl
  | cons k l ih => rw [List.foldl_cons, ih, Part.trigger_tree]

/-- Triggers change no slot's predecessor. -/
theorem Part.triggerAll_followers (l : List SlotNo) (m : Part) (n : SlotNo) :
    (l.foldl Part.trigger m).followers n = m.followers n := by
  induction l generalizing m with
  | nil => rfl
  | cons k l ih =>
    rw [List.foldl_cons, ih]
    refine List.filter_congr fun j _ => ?_
    obtain ⟨order, owned⟩ := m.trigger_keeps k j
    rw [Slot.follows, Slot.follows, order, owned]

/-- A delivery by a predecessor that stays in service. -/
theorem Part.deliver_stays (m : Part) (n : SlotNo) (ok : Bool) :
    m.deliver n ok false = { (if ok then (m.followers n).foldl Part.trigger m else m) with
      tree := (if ok then [] else (m.followers n).map .failed) ++ m.tree } := by
  cases ok
  · simp [Part.deliver]
  · simp [Part.deliver, Part.triggerAll_tree]

/-- A delivery by a predecessor that has left service. -/
theorem Part.deliver_left (m : Part) (n : SlotNo) (ok : Bool) :
    let triggered := if ok then (m.followers n).foldl Part.trigger m else m
    m.deliver n ok true = { triggered.markFollowers n with
      tree := (if ok then [] else (m.followers n).map .failed) ++ (m.followers n).map .left ++ m.tree } ∧
    triggered.followers n = m.followers n := by
  intro triggered
  have tree : (triggered.markFollowers n).tree = m.tree := by
    rw [triggered.markFollowers_rest n]
    cases ok
    · rfl
    · exact Part.triggerAll_tree _ m
  refine ⟨?_, ?_⟩
  · rw [← tree]
    rfl
  · cases ok
    · rfl
    · exact Part.triggerAll_followers _ m n

/-! ### The tasks of the tree (R34 to R36) -/

theorem Part.doTask_follower (m : Part) (base : Word) (n : SlotNo) :
    m.doTask base (.failed n) = (if (m.slot n).state = .taken then
        m.completeAndDeliver base n ⟨0x16, 0, 0, 0, zeroReply, .predecessorFailed⟩ else m) ∧
    m.doTask base (.left n) = (if (m.slot n).state = .taken then
        m.completeAndDeliver base n ⟨0x16, 0, 0, 0, zeroReply, .predecessorLeft⟩ else m) := ⟨rfl, rfl⟩

theorem Part.taskQueues_iff (m : Part) (task : TreeTask) : m.taskQueues task = true ↔
    (∃ k, task = .word k) ∨ ∃ k, (task = .failed k ∨ task = .left k) ∧ (m.slot k).state = .taken := by
  cases task <;> simp [Part.taskQueues]

theorem Part.treeStep_cons (m : Part) (base : Word) (task : TreeTask) (rest : List TreeTask) (tree : m.tree = task :: rest) :
    m.treeStep base = if m.taskQueues task && !m.mayQueue .slotManager then m.startWait .slotManager m.eventNo
      else some (({ m with tree := rest } : Part).doTask base task) := by
  unfold Part.treeStep
  rw [tree]

/-- Settles O49: the entry of a completion field by field, its delivery by whether the slot stays in service, and the tasks
of the tree one by one. -/
theorem completionQueuesResultThenPartWord : Obligations.CompletionQueuesResultThenPartWord := by
  refine ⟨fun x r => ⟨?_, rfl⟩, fun m base n => ⟨fun c => ?_, fun c => ?_, fun taken => ?_, fun other => ?_, rfl,
    fun task rest tree => ?_⟩⟩
  · cases state : x.state <;> cases outcome : x.postOutcome <;>
      simp [partWordBytes, state, outcome, SlotState.code, PostOutcome.code, halfBytes]
  · intro y t
    have whole : t = _ := m.complete_eq base n c
    have slots (k : SlotNo) : t.slot k = (m.setSlot n y).slot k := by
      rw [whole]
      rfl
    refine ⟨m.slot_complete base n c, by rw [whole]; rfl, by rw [whole], by rw [whole]; rfl, by rw [whole]; rfl,
      by rw [whole]; rfl, by rw [whole]; rfl, fun k other => ?_, ?_⟩
    · rw [slots, Part.slot_setSlot_of_ne m n k y (Ne.symm other)]
    · rw [whole]
      exact Part.queue_setQueue _ _ _
  · intro t u followers triggered failed
    have delivered : u = t.deliver n (c.outcome == outcomeOk) ((t.slot n).state == .withdrawn) := rfl
    have follows : t.followers n = followers := rfl
    have trigger : (if c.outcome == outcomeOk then (t.followers n).foldl Part.trigger t else t) = triggered :=
      if_congr beq_iff_eq rfl rfl
    have fail : (if c.outcome == outcomeOk then [] else (t.followers n).map TreeTask.failed) = failed :=
      if_congr beq_iff_eq rfl rfl
    refine ⟨fun stays => ?_, fun left => ?_⟩
    · rw [delivered, beq_eq_false_iff_ne.2 stays, Part.deliver_stays, trigger, fail]
    · obtain ⟨whole, same⟩ := t.deliver_left n (c.outcome == outcomeOk)
      have xq : triggered.xq = t.xq := by
        by_cases ok : c.outcome = 0
        · rw [show triggered = _ from if_pos ok]
          exact (Part.same_of_beyondPosts (Part.triggerAll_beyondPosts t followers)).2.2.1
        · rw [show triggered = _ from if_neg ok]
      have marks := triggered.markFollowers_rest n
      rw [trigger, fail] at whole
      rw [trigger, follows] at same
      rw [delivered, left, beq_self_eq_true, whole]
      refine ⟨by rw [follows], (congrArg Part.queues marks).trans rfl, ((congrArg Part.xq marks).trans rfl).trans xq,
        fun k => ?_⟩
      refine (triggered.slot_markFollowers n k).trans ?_
      rw [same, Slot.marked_eq, ite_and]
  · obtain ⟨failed, left⟩ := m.doTask_follower base n
    exact ⟨failed.trans (if_pos taken), left.trans (if_pos taken)⟩
  · obtain ⟨failed, left⟩ := m.doTask_follower base n
    exact ⟨failed.trans (if_neg other), left.trans (if_neg other)⟩
  · intro t queues
    have step := m.treeStep_cons base task rest tree
    have asks := m.taskQueues_iff task
    refine ⟨fun yes => m.queuesOrWaits_of_mayQueue _ _ _ _ ?_, fun no => ?_⟩
    · rw [step, asks.2 yes, Bool.true_and]
      cases m.mayQueue .slotManager <;> rfl
    · rw [step, Bool.eq_false_iff.2 (mt asks.1 no), Bool.false_and]
      rfl

end Sys2Proof.Machine

/-! PROOF. The steps of a sweep, and its entries with room (R143 to R147, R160, R183 to R186). -/

namespace Sys2Proof.Machine

/-! ### Host words (Tables 12-6 and 12-8) -/

theorem hostRequest_wordAt (bytes : List Byte) : hostRequest (wordAt bytes 0) = byteAt bytes 0 := by
  have word := wordAt_toNat bytes 0
  have half := halfAt_toNat bytes 0
  have low := (byteAt bytes 0).isLt
  apply BitVec.eq_of_toNat_eq
  rw [hostRequest, BitVec.extractLsb'_toNat, Nat.shiftRight_zero]
  omega

theorem hostPost_wordAt (bytes : List Byte) : hostPost (wordAt bytes 0) = halfAt bytes 2 := by
  have word := wordAt_toNat bytes 0
  have low := (halfAt bytes 0).isLt
  have high := (halfAt bytes 2).isLt
  rw [Nat.zero_add] at word
  apply BitVec.eq_of_toNat_eq
  rw [hostPost, BitVec.extractLsb'_toNat, Nat.shiftRight_eq_div_pow]
  omega

/-! ### The pieces of a sweep -/

theorem tableNo_ofNat_val (t : TableNo) : Fin.ofNat 8 t.val = t := Fin.ext (Nat.mod_eq_of_lt t.isLt)

theorem portNo_ofNat_val (p : PortNo) : Fin.ofNat 4 p.val = p := Fin.ext (Nat.mod_eq_of_lt p.isLt)

/-- The jobs that are no entry of a post. -/
theorem JobKind.isPost_eq_false_iff (k : JobKind) :
    k.isPost = false ↔ (∃ p, k = .runEnding p) ∨ ∃ n, k = .expiry n := by
  cases k <;> simp [JobKind.isPost]

/-- A post has been taken whole when no delivery tree is in progress and no entry of a post waits. -/
theorem Part.postTaken_iff (m : Part) : (m.tree.isEmpty && !m.jobs.any fun j => j.kind.isPost) = true ↔
    m.tree = [] ∧ ∀ j ∈ m.jobs, (∃ p, j.kind = .runEnding p) ∨ ∃ k, j.kind = .expiry k := by
  simp only [Bool.and_eq_true, List.isEmpty_iff, Bool.not_eq_true', List.any_eq_false, Bool.not_eq_true,
    JobKind.isPost_eq_false_iff]

theorem ClaimInput.isHoldPost_iff (i : ClaimInput) : i.isHoldPost = true ↔ ∃ t wanted post, i = .holdPost t wanted post := by
  cases i <;> simp [ClaimInput.isHoldPost]

/-- A hold post has been taken when none is on its way to the claim unit. -/
theorem Part.holdTaken_iff (m : Part) :
    m.inbox.any ClaimInput.isHoldPost = false ↔ ∀ t wanted post, .holdPost t wanted post ∉ m.inbox := by
  simp only [List.any_eq_false, ClaimInput.isHoldPost_iff]
  constructor
  · exact fun none t wanted post mem => none _ mem ⟨t, wanted, post, rfl⟩
  · rintro none _ mem ⟨t, wanted, post, rfl⟩
    exact none t wanted post mem

/-- Work in flight, port by port (R174). -/
theorem Part.workInFlight_iff (m : Part) : m.workInFlight = true ↔
    ∃ p, (m.port p).run.work ≠ none ∨ (m.port p).activity.serves = true ∨ (m.port p).tx = some .grant := by
  have one (p : PortNo) : (m.port p).inFlight = true ↔
      (m.port p).run.work ≠ none ∨ (m.port p).activity.serves = true ∨ (m.port p).tx = some .grant := by
    simp [Port.inFlight, Port.hasRun, or_assoc, Option.isSome_iff_ne_none]
  simp only [Part.workInFlight, List.any_eq_true, one, mem_allPorts, true_and]

section Steps
variable (m : Part) (base : Word)

theorem Part.sweepStep_post (n : Nat) (phase : m.sweep.phase = .post n) :
    m.sweepStep base = if m.tree.isEmpty then some (m.handPost base n) else none := by
  unfold Part.sweepStep
  rw [phase]

theorem Part.sweepStep_check (n : SlotNo) (phase : m.sweep.phase = .check n.val) :
    m.sweepStep base = if m.tree.isEmpty then some ((m.armPost n m.sweep.orderRead).setSweepPhase (.postWait n.val))
      else none := by
  unfold Part.sweepStep
  rw [phase]
  dsimp only
  rw [slotNo_ofNat_val]

theorem Part.sweepStep_postWait (n : Nat) (phase : m.sweep.phase = .postWait n) :
    m.sweepStep base =
      if m.tree.isEmpty && !m.jobs.any fun j => j.kind.isPost then some (m.afterSlot base n) else none := by
  unfold Part.sweepStep
  rw [phase]

theorem Part.sweepStep_holdWait (t : Nat) (phase : m.sweep.phase = .holdWait t) :
    m.sweepStep base = if m.inbox.any ClaimInput.isHoldPost then none else some (m.afterHold base t) := by
  unfold Part.sweepStep
  rw [phase]

/-- A step of the sweep that queues an entry. -/
theorem Part.sweepStep_entry (t : Part) (entry : m.sweepEntry base = some t) :
    m.sweepStep base = if m.mayQueue .sweepUnit then some t else m.startWait .sweepUnit m.eventNo := by
  unfold Part.sweepStep
  unfold Part.sweepEntry at entry
  split at entry <;> simp_all [Part.sweepEntry]

/-- A report block of the sweep, and the header after the last (R145). -/
theorem Part.sweepEntry_report (p : PortNo) (phase : m.sweep.phase = .report p.val) :
    m.sweepEntry base = some { m with
      xq := m.xq ++ [⟨[⟨areaAddress base (0x200 + 64 * p.val), reportBytes (m.port p).tallies (m.port p).fault⟩]⟩]
      sweep := { m.sweep with phase := if p.val < 3 then .report (p.val + 1) else .header } } := by
  unfold Part.sweepEntry
  rw [phase]
  dsimp only
  rw [portNo_ofNat_val]
  simp only [Nat.add_lt_add_iff_right, show (4 : Nat) = 3 + 1 from rfl]
  rfl

/-- The header entry ends the sweep; a pending sweep starts at the same event, unless this was the last of STOPPING (R143,
R145, R147). -/
theorem Part.sweepEntry_header (phase : m.sweep.phase = .header) :
    let ended : Part := { m with
      xq := m.xq ++ [⟨[⟨areaAddress base 0x004,
        headerBytes (m.sweep.count + 1) m.engine m.sweep.presence m.sweep.overruns⟩]⟩]
      sweep := { m.sweep with count := m.sweep.count + 1, phase := .idle, pending := false } }
    m.sweepEntry base = some (
      if m.sweep.pending ∧ ¬(m.engine = .stopping ∧ m.workInFlight = false) then { ended with
        sweep := { ended.sweep with phase := .mark, timer := true }
        sweepAccess := some (.read (areaAddress base 0) 4 []) }
      else ended) := by
  unfold Part.sweepEntry
  rw [phase]
  rfl

/-- The sweep unit with room given to it. -/
theorem exec_deferredSweepEntry (s : State) (since : Nat) (t : Part) (released : s.window.resetAsserted = false)
    (working : s.part.engine.working = true) (given : s.part.firstInLine .sweepUnit since)
    (entry : (s.part.tick.endWait .sweepUnit).sweepEntry s.window.base = some t) :
    exec .deferredSweepEntry s = .next (s.ends t) := by
  have room : s.part.tick.givenRoom .sweepUnit = true := (s.part.givenRoom_iff .sweepUnit).2 ⟨since, given⟩
  have effect : s.part.tick.giveSweepRoom s.window.base = t := by
    rw [Part.giveSweepRoom, if_pos room, entry, Option.getD_some]
  rw [← effect]
  exact congrArg Host.Outcome.next
    (s.onPart_whileWorking (fun base m => m.giveSweepRoom base) released working)

end Steps

theorem hostWordOffset (n : Nat) (low : n < 16) : slotOffset (Fin.ofNat 16 n) + 0x20 = 0x420 + 64 * n := by
  have place : (Fin.ofNat 16 n).val = n := Nat.mod_eq_of_lt low
  rw [slotOffset, place]
  omega

theorem holdWordOffset (t : Nat) (low : t < 8) : tableOffset (Fin.ofNat 8 t) + 0x0C = 0x10C + 32 * t := by
  have place : (Fin.ofNat 8 t).val = t := Nat.mod_eq_of_lt low
  rw [tableOffset, place]
  omega

/-- Settles O51: each step by the phase of the sweep, the entries with room at once and with room given. -/
theorem sweepQueuesReportsThenHeader : Obligations.SweepQueuesReportsThenHeader := by
  refine ⟨fun m base bytes => ?_, ?_, fun bytes u f count overruns e pr => ?_⟩
  · intro w reads postDone holdDone
    refine ⟨fun phase => ?_, fun n => ⟨fun phase => ?_, fun phase => ?_, fun phase => ?_, fun phase => ?_, fun phase => ?_,
      fun more => ?_, fun last => ?_⟩, fun t => ⟨fun phase => ?_, fun phase => ?_, fun more => ?_⟩⟩
    · show m.sweepReadDone base bytes = _
      rw [Part.sweepReadDone, phase]
      rfl
    · rw [Part.sweepReadDone, phase]
    · have step := m.sweepStep_post base n.val phase
      exact ⟨fun free => step.trans (if_pos (List.isEmpty_iff.2 free)),
        fun busy => step.trans (if_neg (mt List.isEmpty_iff.1 busy))⟩
    · rw [Part.sweepReadDone, phase]
    · intro t
      have step := m.sweepStep_check base n phase
      exact ⟨fun free => step.trans (if_pos (List.isEmpty_iff.2 free)),
        fun busy => step.trans (if_neg (mt List.isEmpty_iff.1 busy))⟩
    · have step := m.sweepStep_postWait base n.val phase
      exact ⟨fun done => step.trans (if_pos (m.postTaken_iff.2 done)),
        fun busy => step.trans (if_neg (mt m.postTaken_iff.1 busy))⟩
    · have next : m.afterSlot base n.val = m.readSlotWord base (n.val + 1) := if_pos (by omega)
      show m.afterSlot base n.val = _
      rw [next, Part.readSlotWord, hostWordOffset _ (by omega)]
      rfl
    · have next : m.afterSlot base n.val = m.readHoldWord base 0 := if_neg (by omega)
      show m.afterSlot base n.val = _
      rw [next]
      rfl
    · rw [Part.sweepReadDone, phase]
      dsimp only
      rw [hostRequest_wordAt, hostPost_wordAt, tableNo_ofNat_val]
      rfl
    · have step := m.sweepStep_holdWait base t.val phase
      refine ⟨fun done => ?_, fun busy => ?_⟩
      · rw [step, m.holdTaken_iff.2 done]
        rfl
      · rw [step, Bool.eq_true_of_not_eq_false (mt m.holdTaken_iff.1 busy)]
        rfl
    · have next : m.afterHold base t.val = m.readHoldWord base (t.val + 1) := if_pos (by omega)
      show m.afterHold base t.val = _
      rw [next, Part.readHoldWord, holdWordOffset _ (by omega)]
      rfl
  · intro block header
    have ends (m : Part) (base : Word) (phase : m.sweep.phase = .header) :
        ∃ t, m.sweepEntry base = some t ∧ header m base t := by
      refine ⟨_, m.sweepEntry_header base phase, ?_⟩
      have idle : m.workInFlight = false ↔
          ¬∃ p, (m.port p).run.work ≠ none ∨ (m.port p).activity.serves = true ∨ (m.port p).tx = some .grant := by
        rw [← m.workInFlight_iff, Bool.not_eq_true]
      simp only [idle]
      refine ⟨fun done => if_neg ?_, fun pending more => if_pos ⟨pending, more⟩⟩
      rintro ⟨pending, more⟩
      exact done.elim (fun none => absurd (none.symm.trans pending) Bool.false_ne_true) more
    refine ⟨fun m base => ⟨fun p phase => ?_, fun phase => ?_⟩, fun s since released working given => ⟨fun p phase => ?_,
      fun phase => ?_⟩⟩
    · exact m.queuesOrWaits_of_mayQueue _ _ _ _ (m.sweepStep_entry base _ (m.sweepEntry_report base p phase))
    · obtain ⟨t, entry, isHeader⟩ := ends m base phase
      exact ⟨t, m.queuesOrWaits_of_mayQueue _ _ _ _ (m.sweepStep_entry base t entry), isHeader⟩
    · exact exec_deferredSweepEntry s since _ released working given
        (Part.sweepEntry_report (s.part.tick.endWait .sweepUnit) s.window.base p phase)
    · obtain ⟨t, entry, isHeader⟩ := ends (s.part.tick.endWait .sweepUnit) s.window.base phase
      exact ⟨t, exec_deferredSweepEntry s since t released working given entry, isHeader⟩
  · intro half word
    refine ⟨?_, ?_, rfl⟩
    · cases kind : f.kind <;> simp [reportBytes, talliesBytes, faultBytes, kind, FaultKind.code, half, word, halfBytes,
        wordBytes]
    · cases e <;> cases pr <;> rfl

end Sys2Proof.Machine

/-! PROOF. The adoption and CLEAR_TALLIES, and the stop sequence, with room (R3, R25, R58, R62, R160, R166, R172, R174,
R175). -/

namespace Sys2Proof.Machine

/-! ### The adoption (R172) -/

theorem adoptedPort_eq (x : PortSetup) : adoptedPort x =
    if x.role = 0 then { Port.reset with activity := .offline }
    else { Port.reset with
      activity := .idle, silence := true
      receiver := { state := .hunt, buffer := [], bodyLength := none, check := 0xFFFF } } := by
  by_cases off : x.role = 0
  · rw [if_pos off]
    simp [adoptedPort, PortSetup.roleOf, off]
  · rw [if_neg off]
    have kept : x.roleOf ≠ .off := by
      unfold PortSetup.roleOf
      rw [if_neg (by simpa using off)]
      (repeat' split) <;> exact Role.noConfusion
    unfold adoptedPort
    split
    · next role => exact absurd role kept
    all_goals rfl

theorem adoptedPort_leaveGrant (x : PortSetup) : (adoptedPort x).leaveGrant = adoptedPort x := by
  rw [adoptedPort_eq]
  split <;> rfl

section Adoption
variable (m : Part) (base : Word)

theorem Part.adoptEntry_slot (n : SlotNo) :
    let x : Slot := { Slot.reset with seenPost := (m.loader.hostWords.get n).extractLsb' 16 16 }
    m.adoptEntry base n.val = { m.setSlot n x with
      xq := m.xq ++ [completionEntry base n x], loader := { m.loader with phase := .adopting (n.val + 1) } } := by
  intro x
  rw [Part.adoptEntry, if_pos n.isLt]
  dsimp only
  rw [slotNo_ofNat_val]
  rfl

theorem Part.adoptEntry_table (u : TableNo) :
    let x : TableRecord := { TableRecord.reset with seenHold := (m.loader.holdWords.get u).extractLsb' 16 16 }
    m.adoptEntry base (16 + u.val) = { m.setTable u x with
      xq := m.xq ++ [tableRecordEntry base u x], loader := { m.loader with phase := .adopting (17 + u.val) } } := by
  intro x
  rw [Part.adoptEntry, if_neg (by omega), if_pos (by omega), Nat.add_sub_cancel_left]
  dsimp only
  rw [tableNo_ofNat_val, Nat.add_right_comm]
  rfl

theorem Part.adoptEntry_port (p : PortNo) :
    m.adoptEntry base (24 + p.val) = { m.setPort p { m.port p with tallies := Tallies.zero, fault := FaultRecord.empty } with
      xq := m.xq ++ [⟨[⟨areaAddress base (0x200 + 64 * p.val), reportBytes Tallies.zero FaultRecord.empty⟩]⟩]
      loader := { m.loader with phase := .adopting (25 + p.val) } } := by
  rw [Part.adoptEntry, if_neg (by omega), if_neg (by omega), if_pos (by omega), Nat.add_sub_cancel_left]
  dsimp only
  rw [portNo_ofNat_val, Nat.add_right_comm, Part.onPort, Part.port_setPort]
  rfl

theorem Part.adoptEntry_header :
    m.adoptEntry base 28 = (m.pushEntry (headerEntry base 0 .running .present 0)).enterRunning base := rfl

theorem Part.enterRunning_port (p : PortNo) : (m.enterRunning base).port p = adoptedPort (m.portSetup p) := by
  have adopted (k : Part) (ports : k.ports = m.setup.ports.map adoptedPort) :
      k.port p = adoptedPort (m.portSetup p) := by
    rw [Part.port, ports]
    simp [Vector.get, Part.portSetup]
  unfold Part.enterRunning
  dsimp only
  split
  · refine (Part.port_onPorts _ p Port.leaveGrant).trans ?_
    rw [adopted _ rfl, adoptedPort_leaveGrant]
  · exact adopted _ rfl

/-- What the last step of the adoption sets beside the ports. -/
theorem Part.enterRunning_fields :
    (m.enterRunning base).engine = (if m.loader.stopHeld = true then .stopping else .running) ∧
    (m.enterRunning base).loader = Loader.reset ∧ (m.enterRunning base).xq = m.xq ∧
    (m.enterRunning base).sweep = { Sweep.reset with phase := .mark, timer := true } ∧
    (m.enterRunning base).sweepAccess = some (.read (areaAddress base 0) 4 []) ∧
    (m.enterRunning base).pointer = .sweep ∧ (∀ p, (m.enterRunning base).queue p = []) ∧
    ∀ u, (m.enterRunning base).claimList u = [] := by
  have queue (k : Part) (empty : k.queues = Vector.replicate 4 []) (p : PortNo) : k.queue p = [] := by
    rw [Part.queue, empty]
    simp [Vector.get]
  have claimList (k : Part) (empty : k.claims = Vector.replicate 8 []) (u : TableNo) : k.claimList u = [] := by
    rw [Part.claimList, empty]
    simp [Vector.get]
  unfold Part.enterRunning
  dsimp only
  split
  · exact ⟨rfl, rfl, rfl, rfl, rfl, rfl, queue _ rfl, claimList _ rfl⟩
  · exact ⟨rfl, rfl, rfl, rfl, rfl, rfl, queue _ rfl, claimList _ rfl⟩

theorem Part.adoptStep_adopting (k : Nat) (phase : m.loader.phase = .adopting k) :
    m.adoptStep base = if m.mayQueue .engineControl then some (m.adoptEntry base k)
      else m.startWait .engineControl m.eventNo := by
  unfold Part.adoptStep
  rw [phase]

theorem Part.clearStep_cons (p : PortNo) (rest : List PortNo) (pending : m.clearPending = p :: rest) :
    m.clearStep base = if m.mayQueue .engineControl then some (m.clearEntry base p rest)
      else m.startWait .engineControl m.eventNo := by
  unfold Part.clearStep
  rw [pending]

end Adoption

theorem exec_deferredAdoptionEntry (s : State) (since k : Nat) (released : s.window.resetAsserted = false)
    (given : s.part.firstInLine .engineControl since) (phase : s.part.loader.phase = .adopting k) :
    exec .deferredAdoptionEntry s =
      .next (s.ends ((s.part.tick.endWait .engineControl).adoptEntry s.window.base k)) := by
  have room : s.part.tick.givenRoom .engineControl = true := (s.part.givenRoom_iff .engineControl).2 ⟨since, given⟩
  have effect : s.part.tick.giveAdoptionRoom s.window.base =
      (s.part.tick.endWait .engineControl).adoptEntry s.window.base k := by
    unfold Part.giveAdoptionRoom
    rw [show s.part.tick.loader.phase = .adopting k from phase]
    exact if_pos room
  rw [← effect]
  exact congrArg Host.Outcome.next (s.onPart_ends (fun base m => m.giveAdoptionRoom base) released)

theorem exec_deferredClearTalliesEntry (s : State) (since : Nat) (p : PortNo) (rest : List PortNo)
    (released : s.window.resetAsserted = false) (given : s.part.firstInLine .engineControl since)
    (pending : s.part.clearPending = p :: rest) :
    exec .deferredClearTalliesEntry s =
      .next (s.ends ((s.part.tick.endWait .engineControl).clearEntry s.window.base p rest)) := by
  have room : s.part.tick.givenRoom .engineControl = true := (s.part.givenRoom_iff .engineControl).2 ⟨since, given⟩
  have effect : s.part.tick.giveClearRoom s.window.base =
      (s.part.tick.endWait .engineControl).clearEntry s.window.base p rest := by
    unfold Part.giveClearRoom
    rw [show s.part.tick.clearPending = p :: rest from pending]
    exact if_pos room
  rw [← effect]
  exact congrArg Host.Outcome.next (s.onPart_ends (fun base m => m.giveClearRoom base) released)

/-- Settles O52: each entry by its place in the adoption, with room at once and with room given. -/
theorem engineControlGoesOnWithRoom : Obligations.EngineControlGoesOnWithRoom := by
  unfold Obligations.EngineControlGoesOnWithRoom
  intro slot table port header clears
  have runs (m : Part) (base : Word) : header m base (m.adoptEntry base 28) := by
    rw [Part.adoptEntry_header]
    obtain ⟨engine, loader, xq, sweep, access, pointer, queues, lists⟩ :=
      (m.pushEntry (headerEntry base 0 .running .present 0)).enterRunning_fields base
    refine ⟨engine, loader, xq, sweep, access, pointer, fun p => ⟨queues p, ?_⟩, lists⟩
    rw [Part.enterRunning_port, adoptedPort_eq]
    by_cases off : ((m.pushEntry (headerEntry base 0 .running .present 0)).portSetup p).role = 0
    · rw [if_pos off]
      exact ⟨rfl, rfl, rfl, rfl, rfl, fun on => absurd off on, fun _ => rfl⟩
    · rw [if_neg off]
      exact ⟨rfl, rfl, rfl, rfl, rfl, fun _ => rfl, fun no => absurd no off⟩
  have clear (m : Part) (base : Word) (p : PortNo) (rest : List PortNo) :
      clears m base p rest (m.clearEntry base p rest) := by
    refine ⟨fun more => if_neg ?_, fun last clearing => if_pos ⟨List.isEmpty_iff.2 last, clearing⟩⟩
    rintro ⟨last, clearing⟩
    exact more.elim (fun some => some (List.isEmpty_iff.1 last)) fun other => other clearing
  refine ⟨fun m base => ?_, fun s since released given => ?_⟩
  · intro adopts
    have adopt (k : Nat) (t : Part) (phase : m.loader.phase = .adopting k) (entry : m.adoptEntry base k = t) : adopts t :=
      m.queuesOrWaits_of_mayQueue _ _ _ _ (by rw [m.adoptStep_adopting base k phase, entry])
    exact ⟨fun n phase => adopt _ _ phase (m.adoptEntry_slot base n),
      fun u phase => adopt _ _ phase (m.adoptEntry_table base u),
      fun p phase => adopt _ _ phase (m.adoptEntry_port base p), fun phase => ⟨_, adopt _ _ phase rfl, runs m base⟩,
      fun p rest pending => ⟨_, m.queuesOrWaits_of_mayQueue _ _ _ _ (m.clearStep_cons base p rest pending),
        clear m base p rest⟩⟩
  · intro base m adopts
    have adopt (k : Nat) (t : Part) (phase : s.part.loader.phase = .adopting k) (entry : m.adoptEntry base k = t) :
        adopts t := by
      rw [← entry]
      exact exec_deferredAdoptionEntry s since k released given phase
    exact ⟨fun n phase => adopt _ _ phase (m.adoptEntry_slot base n),
      fun u phase => adopt _ _ phase (m.adoptEntry_table base u),
      fun p phase => adopt _ _ phase (m.adoptEntry_port base p), fun phase => ⟨_, adopt _ _ phase rfl, runs m base⟩,
      fun p rest pending => ⟨_, exec_deferredClearTalliesEntry s since p rest released given pending,
        clear m base p rest⟩⟩

end Sys2Proof.Machine

/-! PROOF. The stop sequence, with room (R25, R62, R160, R174, R175). -/

namespace Sys2Proof.Machine

/-- The pass of the grant rule leaves the claimants of a list as they are. -/
theorem claimant_mem_of_grantsByRule {bits : Bool} {l l' : List Claim} (rule : grantsByRule bits l l') {c : Claim}
    (mem : c ∈ l') : ∃ d ∈ l, d.claimant = c.claimant := by
  obtain ⟨length, each⟩ := rule
  obtain ⟨i, low, rfl⟩ := List.getElem_of_mem mem
  have low' : i < l.length := by omega
  refine ⟨l[i], List.getElem_mem low', ?_⟩
  have same := each i l[i] (List.getElem?_eq_getElem low')
  rw [List.getElem?_eq_getElem low, Option.some.injEq] at same
  rw [same]

/-- A claimant whose claim has left does not become granted by its leaving. -/
theorem not_becomesGranted_of_left {bits : Bool} {l l' : List Claim} (who : Claimant)
    (rule : grantsByRule bits (l.filter fun c => c.claimant != who) l') :
    ¬becomesGranted (l.filter fun c => c.claimant != who) l' who := by
  rintro ⟨⟨c, mem, isWho, -⟩, -⟩
  obtain ⟨d, left, same⟩ := claimant_mem_of_grantsByRule rule mem
  have other := (List.mem_filter.1 left).2
  rw [same, isWho] at other
  simp at other

theorem Part.holdClaimed_iff (m : Part) (t : TableNo) :
    m.holdClaimed t = true ↔ ∃ c ∈ m.claimList t, c.claimant = .hold := by simp [Part.holdClaimed]

theorem Part.blocksIdle_iff (m : Part) : m.blocksIdle = true ↔ m.inbox = [] ∧ m.tree = [] ∧ m.jobs = [] := by
  simp [Part.blocksIdle, and_assoc]

theorem Part.sweepIdle_iff (m : Part) : m.sweep.inProgress = false ↔ m.sweep.phase = .idle := by
  simp [Sweep.inProgress]

section Stop
variable (m : Part) (base : Word)

/-! ### The steps of the stop sequence -/

section Steps
variable (stopping : m.engine = .stopping)
include stopping

theorem Part.stopStep_of_advance (k : Part) (advance : m.stopAdvance = some k) : m.stopStep base = some k := by
  rw [Part.stopStep, if_pos stopping, advance]

theorem Part.stopStep_of_entry (k : Part) (advance : m.stopAdvance = none) (entry : m.stopEntry base = some k) :
    m.stopStep base = if m.mayQueue .engineControl then some k else m.startWait .engineControl m.eventNo := by
  rw [Part.stopStep, if_pos stopping, advance, entry]

theorem Part.stopStep_of_none (advance : m.stopAdvance = none) (entry : m.stopEntry base = none) :
    m.stopStep base = none := by
  rw [Part.stopStep, if_pos stopping, advance, entry]

end Steps

theorem Part.stopAdvance_begin (stage : m.stopSequence = none) :
    m.stopAdvance = if m.workInFlight = false ∧ m.sweep.inProgress = false then
      some { m with stopSequence := some (.holds 0) } else none := by
  unfold Part.stopAdvance
  rw [stage]

theorem Part.stopEntry_begin (stage : m.stopSequence = none) : m.stopEntry base = none := by
  unfold Part.stopEntry
  rw [stage]

theorem Part.stopAdvance_holds (t : TableNo) (stage : m.stopSequence = some (.holds t.val)) :
    m.stopAdvance = if m.holdClaimed t then none else some { m with stopSequence := some (.holds (t.val + 1)) } := by
  unfold Part.stopAdvance
  rw [stage]
  dsimp only
  rw [if_neg (by omega), tableNo_ofNat_val]

theorem Part.stopEntry_holds (t : TableNo) (stage : m.stopSequence = some (.holds t.val)) :
    m.stopEntry base = if m.holdClaimed t = true ∧ m.blocksIdle = true then
      some { m.releaseHold base t with stopSequence := some (.holds (t.val + 1)) } else none := by
  unfold Part.stopEntry
  rw [stage]
  simp only [t.isLt, true_and, tableNo_ofNat_val]

theorem Part.stopAdvance_slots (n : SlotNo) (stage : m.stopSequence = some (.slots n.val)) :
    m.stopAdvance = if (m.slot n).state.partOwned then none
      else some { m with stopSequence := some (.slots (n.val + 1)) } := by
  unfold Part.stopAdvance
  rw [stage]
  dsimp only
  rw [if_neg (by omega), slotNo_ofNat_val]

theorem Part.stopEntry_slots (n : SlotNo) (stage : m.stopSequence = some (.slots n.val)) :
    m.stopEntry base = if (m.slot n).state.partOwned = true ∧ m.blocksIdle = true then
      some { m.complete base n stoppedCompletion with stopSequence := some (.slots (n.val + 1)) } else none := by
  unfold Part.stopEntry
  rw [stage]
  simp only [n.isLt, true_and, slotNo_ofNat_val]

theorem Part.stopAdvance_header (stage : m.stopSequence = some .header) : m.stopAdvance = none := by
  unfold Part.stopAdvance
  rw [stage]

theorem Part.stopEntry_header (stage : m.stopSequence = some .header) :
    m.stopEntry base = if m.blocksIdle then
      some (m.pushEntry (headerEntry base m.sweep.count .stopped m.sweep.presence m.sweep.overruns)).enterStopped
      else none := by
  unfold Part.stopEntry
  rw [stage]

/-! ### Its entries -/

/-- A hold removed on the entry to STOPPED (R62): its record shows FREE, its claim leaves, and the record is queued. -/
theorem Part.releaseHold_spec (t : TableNo) :
    let n := m.releaseHold base t
    let x : TableRecord := { m.table t with holdState := .free }
    let l := (m.claimList t).filter fun c => c.claimant != .hold
    n.table t = x ∧ n.xq = m.xq ++ [tableRecordEntry base t x] ∧
    grantsByRule (m.tableEntry t).isBits l (n.claimList t) ∧
    (∀ u, u ≠ t → n.table u = m.table u ∧ n.claimList u = m.claimList u) ∧
    (∀ q, (becomesGranted l (n.claimList t) (.port q) → n.port q = (m.claimGranted q).port q) ∧
      (¬becomesGranted l (n.claimList t) (.port q) → n.port q = m.port q)) ∧
    n.waiters = m.waiters ∧ n.slots = m.slots ∧ n.causes = m.causes ∧ n.engine = m.engine := by
  intro n x l
  let freed := m.setTable t x
  let left := freed.claimLeaves t .hold
  obtain ⟨rule, others, ports, -, kept, rest⟩ := freed.claimLeaves_spec t .hold
  have record : left.table t = x := (kept (not_becomesGranted_of_left .hold rule)).trans (Part.table_setTable m t x)
  have whole : n = left.pushEntry (tableRecordEntry base t x) := by
    rw [← record]
    rfl
  have starts (q : PortNo) : (freed.claimGranted q).port q = (m.claimGranted q).port q :=
    Part.claimGranted_local m freed q rfl rfl
  rw [whole]
  refine ⟨record, ?_, rule, fun u other => ⟨?_, (others u other).1⟩,
    fun q => ⟨fun grant => ((ports q).1 grant).trans (starts q), (ports q).2⟩, ?_⟩
  · exact congrArg (· ++ [tableRecordEntry base t x]) ((congrArg Part.xq rest).trans rfl)
  · exact ((others u other).2).trans (Part.table_setTable_of_ne m t u x (Ne.symm other))
  · exact ⟨(congrArg Part.waiters rest).trans rfl, (congrArg Part.slots rest).trans rfl,
      (congrArg Part.causes rest).trans rfl, (congrArg Part.engine rest).trans rfl⟩

end Stop

theorem Part.enterStopped_port (m : Part) (p : PortNo) : m.enterStopped.port p = (m.port p).offline :=
  m.port_onPorts p Port.offline

theorem exec_deferredStopSequenceEntry (s : State) (since : Nat) (t : Part) (released : s.window.resetAsserted = false)
    (working : s.part.engine.working = true) (given : s.part.firstInLine .engineControl since)
    (entry : (s.part.tick.endWait .engineControl).stopEntry s.window.base = some t) :
    exec .deferredStopSequenceEntry s = .next (s.ends t) := by
  have room : s.part.tick.givenRoom .engineControl = true := (s.part.givenRoom_iff .engineControl).2 ⟨since, given⟩
  have effect : s.part.tick.giveStopRoom s.window.base = t := by
    rw [Part.giveStopRoom, if_pos room, entry, Option.getD_some]
  rw [← effect]
  exact congrArg Host.Outcome.next (s.onPart_whileWorking (fun base m => m.giveStopRoom base) released working)

/-- Settles O53: the sequence stage by stage, each entry with room at once and with room given. -/
theorem stopSequenceGoesOnWithRoom : Obligations.StopSequenceGoesOnWithRoom := by
  unfold Obligations.StopSequenceGoesOnWithRoom
  intro idle held hold slot header
  have releases (m : Part) (base : Word) (t : TableNo) :
      hold m base t { m.releaseHold base t with stopSequence := some (.holds (t.val + 1)) } := by
    obtain ⟨record, xq, rule, others, ports, waiters, slots, causes, engine⟩ := m.releaseHold_spec base t
    exact ⟨rfl, record, xq, rule, others, ports, waiters, slots, causes, engine⟩
  have enters (m : Part) (base : Word) : header m base
      (m.pushEntry (headerEntry base m.sweep.count .stopped m.sweep.presence m.sweep.overruns)).enterStopped := by
    refine ⟨rfl, rfl, rfl, rfl, rfl, rfl, rfl, rfl, rfl, fun p => ?_⟩
    rw [Part.enterStopped_port]
    exact ⟨rfl, rfl, rfl, rfl, rfl, rfl⟩
  refine ⟨fun m base stopping => ?_, fun s since released stopping given free => ?_⟩
  · intro inFlight passes queued
    have isIdle : m.blocksIdle = true ↔ idle m := m.blocksIdle_iff
    have quiet : (m.workInFlight = false ∧ m.sweep.inProgress = false) ↔ ¬inFlight ∧ m.sweep.phase = .idle := by
      rw [m.sweepIdle_iff, ← Bool.not_eq_true, m.workInFlight_iff]
    have queues (k : Part) (advance : m.stopAdvance = none) (entry : m.stopEntry base = some k) : queued k :=
      m.queuesOrWaits_of_mayQueue _ _ _ _ (m.stopStep_of_entry base stopping k advance entry)
    refine ⟨fun stage => ⟨fun none idleSweep => ?_, fun busy => ?_⟩, fun t stage => ?_, fun stage => ?_, fun n stage => ?_,
      fun stage => ?_, fun stage => ?_⟩
    · exact m.stopStep_of_advance base stopping _ ((m.stopAdvance_begin stage).trans (if_pos (quiet.2 ⟨none, idleSweep⟩)))
    · refine m.stopStep_of_none base stopping ((m.stopAdvance_begin stage).trans (if_neg ?_)) (m.stopEntry_begin base stage)
      intro both
      obtain ⟨none, idleSweep⟩ := quiet.1 both
      exact busy.elim none fun other => other idleSweep
    · have claimed : m.holdClaimed t = true ↔ held m t := m.holdClaimed_iff t
      have advance := m.stopAdvance_holds t stage
      have entry := m.stopEntry_holds base t stage
      refine ⟨fun none => ?_, fun some busy => ?_, fun some free => ⟨_, ?_, releases m base t⟩⟩
      · exact m.stopStep_of_advance base stopping _ (advance.trans (if_neg (mt claimed.1 none)))
      · exact m.stopStep_of_none base stopping (advance.trans (if_pos (claimed.2 some)))
          (entry.trans (if_neg fun both => busy (isIdle.1 both.2)))
      · exact queues _ (advance.trans (if_pos (claimed.2 some)))
          (entry.trans (if_pos ⟨claimed.2 some, isIdle.2 free⟩))
    · refine m.stopStep_of_advance base stopping _ ?_
      rw [Part.stopAdvance, stage]
      rfl
    · have advance := m.stopAdvance_slots n stage
      have entry := m.stopEntry_slots base n stage
      refine ⟨fun host => ?_, fun own busy => ?_, fun own free => ?_⟩
      · exact m.stopStep_of_advance base stopping _ (advance.trans (if_neg (by rw [host]; decide)))
      · exact m.stopStep_of_none base stopping (advance.trans (if_pos own))
          (entry.trans (if_neg fun both => busy (isIdle.1 both.2)))
      · exact queues _ (advance.trans (if_pos own)) (entry.trans (if_pos ⟨own, isIdle.2 free⟩))
    · refine m.stopStep_of_advance base stopping _ ?_
      rw [Part.stopAdvance, stage]
      rfl
    · have advance := m.stopAdvance_header stage
      have entry := m.stopEntry_header base stage
      exact ⟨fun busy => m.stopStep_of_none base stopping advance (entry.trans (if_neg (mt isIdle.1 busy))),
        fun free => ⟨_, queues _ advance (entry.trans (if_pos (isIdle.2 free))), enters m base⟩⟩
  · intro base m becomes
    have working : s.part.engine.working = true := EngineState.working_of_stopping stopping
    have isIdle : m.blocksIdle = true := m.blocksIdle_iff.2 free
    have becomes' (k : Part) (entry : m.stopEntry base = some k) : becomes k :=
      exec_deferredStopSequenceEntry s since k released working given entry
    refine ⟨fun t stage some => ⟨_, becomes' _ ?_, releases m base t⟩, fun n stage own => becomes' _ ?_,
      fun stage => ⟨_, becomes' _ ?_, enters m base⟩⟩
    · exact (m.stopEntry_holds base t stage).trans (if_pos ⟨(m.holdClaimed_iff t).2 some, isIdle⟩)
    · exact (m.stopEntry_slots base n stage).trans (if_pos ⟨own, isIdle⟩)
    · exact (m.stopEntry_header base stage).trans (if_pos isIdle)

end Sys2Proof.Machine

/-! PROOF. The slot manager's jobs and its delivery tree, with room (R5, R12, R20, R25, R34 to R36, R39, R160). -/

namespace Sys2Proof.Machine

/-! ### What a job does -/

/-- The state that an entry of a take shows (R13, R29). -/
theorem Order.stateAtTake_eq (o : Order) : o.stateAtTake = if o.follows = 0xFF then .queued else .taken := by
  by_cases plain : o.follows = 0xFF <;> simp [Order.stateAtTake, Order.isFollower, plain]

/-- The completion that a run's ending gives (Table 1-7). -/
theorem Run.completion_eq (r : Run) (e : RunEnding) : r.completion e = ⟨e.outcome, e.reason, BitVec.ofNat 8 r.started,
    r.tag, if e.outcome = 0 then r.replyData else zeroReply, .none⟩ := by
  rw [Run.completion, if_congr (beq_iff_eq (a := e.outcome) (b := outcomeOk)) rfl rfl]
  rfl

theorem Part.queueRejection_eq (m : Part) (base : Word) (n : SlotNo) (notify : Bool) :
    m.queueRejection base n notify = { m with
      xq := m.xq ++ [completionEntry base n (m.slot n)], causes := if notify then m.causes ||| 1 else m.causes } :=
  Part.notifySlot_eq _ notify

/-- The kinds of job that are no expiry queue an entry. -/
theorem JobKind.queues_iff (k : JobKind) : k.queues = true ↔ ∀ n, k ≠ .expiry n := by
  cases k <;> simp [JobKind.queues]

/-! ### Expiries behind an entry that waits (Table 2-2 note 2) -/

theorem firstExpiry_of_first (before after : List Job) (n : SlotNo) (since : Nat)
    (none : ∀ j ∈ before, ∀ n, j.kind ≠ .expiry n) :
    firstExpiry (before ++ ⟨.expiry n, since⟩ :: after) = some (n, before ++ after) := by
  induction before with
  | nil => rfl
  | cons j before ih =>
    have found := ih fun i mem => none i (List.mem_cons_of_mem j mem)
    have other := none j (List.mem_cons_self ..)
    rw [List.cons_append, firstExpiry]
    cases kind : j.kind with
    | expiry k => exact absurd kind (other k)
    | runEnding _ | postWord _ | takeWord _ | rejection _ _ => simp only [found, List.cons_append]

theorem firstExpiry_of_none (l : List Job) (none : ∀ j ∈ l, ∀ n, j.kind ≠ .expiry n) : firstExpiry l = .none := by
  induction l with
  | nil => rfl
  | cons j l ih =>
    have left := ih fun i mem => none i (List.mem_cons_of_mem j mem)
    have other := none j (List.mem_cons_self ..)
    rw [firstExpiry]
    cases kind : j.kind with
    | expiry k => exact absurd kind (other k)
    | runEnding _ | postWord _ | takeWord _ | rejection _ _ => simp only [left]

theorem Part.mayQueue_iff (m : Part) (who : Producer) : m.mayQueue who = true ↔ ¬m.isWaiting who ∧ m.roomAtOnce := by
  rw [m.isWaiting_iff, m.roomAtOnce_iff, Part.mayQueue, Bool.and_eq_true, Bool.not_eq_true', Bool.not_eq_true]

theorem Part.startWait_of_waiting (m : Part) (who : Producer) (since : Nat) (waits : m.isWaiting who) :
    m.startWait who since = none := if_pos ((m.isWaiting_iff who).1 waits)

theorem Part.startWait_of_notWaiting (m : Part) (who : Producer) (since : Nat) (ready : ¬m.isWaiting who) :
    m.startWait who since = some { m with waiters := m.waiters ++ [⟨who, since⟩] } :=
  if_neg (mt (m.isWaiting_iff who).2 ready)

/-! ### The commands that give room -/

theorem exec_deferredRunCompletion (s : State) (released : s.window.resetAsserted = false)
    (working : s.part.engine.working = true) : exec .deferredRunCompletion s =
      .next (s.ends (s.part.tick.giveJobRoom s.window.base JobKind.isRunEnding)) :=
  congrArg Host.Outcome.next
    (s.onPart_whileWorking (fun base m => m.giveJobRoom base JobKind.isRunEnding) released working)

theorem exec_deferredPostEntry (s : State) (released : s.window.resetAsserted = false)
    (working : s.part.engine.working = true) : exec .deferredPostEntry s =
      .next (s.ends (s.part.tick.givePostRoom s.window.base)) :=
  congrArg Host.Outcome.next (s.onPart_whileWorking (fun base m => m.givePostRoom base) released working)

theorem exec_deferredDeliveryEntry (s : State) (released : s.window.resetAsserted = false)
    (working : s.part.engine.working = true) : exec .deferredDeliveryEntry s =
      .next (s.ends (s.part.tick.giveTreeRoom s.window.base fun t => !t.isWord)) :=
  congrArg Host.Outcome.next
    (s.onPart_whileWorking (fun base m => m.giveTreeRoom base fun t => !t.isWord) released working)

/-- Room given to a delivery tree goes to its next task, of the kind asked for. -/
theorem Part.giveTreeRoom_eq (m : Part) (base : Word) (kind : TreeTask → Bool) (task : TreeTask) (rest : List TreeTask)
    (tree : m.tree = task :: rest) (room : m.givenRoom .slotManager = true) (asked : kind task = true)
    (queues : m.taskQueues task = true) :
    m.giveTreeRoom base kind = (({ m with tree := rest } : Part).endWait .slotManager).doTask base task := by
  unfold Part.giveTreeRoom
  rw [tree]
  simp only [room, asked, queues, Bool.and_self, if_true]

theorem Part.givePostRoom_of_noTree (m : Part) (base : Word) (noTree : m.tree = []) :
    m.givePostRoom base = m.giveJobRoom base JobKind.isPost := by
  unfold Part.givePostRoom
  rw [noTree]

theorem Part.givePostRoom_of_tree (m : Part) (base : Word) (task : TreeTask) (rest : List TreeTask)
    (tree : m.tree = task :: rest) : m.givePostRoom base = m.giveTreeRoom base TreeTask.isWord := by
  unfold Part.givePostRoom
  rw [tree]

/-! ### Commands that only pass -/

section Passes
variable (m : Part) (base : Word)

theorem Part.giveJobRoom_of_none (kind : JobKind → Bool) (none : m.givenRoom .slotManager = false) :
    m.giveJobRoom base kind = m := by
  unfold Part.giveJobRoom
  split
  · rw [none, Bool.false_and, if_neg Bool.false_ne_true]
  · rfl

theorem Part.giveTreeRoom_of_none (kind : TreeTask → Bool) (none : m.givenRoom .slotManager = false) :
    m.giveTreeRoom base kind = m := by
  unfold Part.giveTreeRoom
  split
  · rfl
  · rw [none, Bool.false_and, Bool.false_and, if_neg Bool.false_ne_true]

theorem Part.givePostRoom_of_none (none : m.givenRoom .slotManager = false) : m.givePostRoom base = m := by
  unfold Part.givePostRoom
  split
  · exact m.giveJobRoom_of_none base _ none
  · exact m.giveTreeRoom_of_none base _ none

theorem Part.giveClaimRoom_of_none (none : m.givenRoom .claimUnit = false) : m.giveClaimRoom base = m := by
  unfold Part.giveClaimRoom
  split
  · rfl
  · rw [none, if_neg Bool.false_ne_true]

theorem Part.giveSweepRoom_of_none (none : m.givenRoom .sweepUnit = false) : m.giveSweepRoom base = m := by
  rw [Part.giveSweepRoom, none, if_neg Bool.false_ne_true]

theorem Part.giveAdoptionRoom_of_none (none : m.givenRoom .engineControl = false) : m.giveAdoptionRoom base = m := by
  unfold Part.giveAdoptionRoom
  split
  · rw [none, if_neg Bool.false_ne_true]
  all_goals rfl

theorem Part.giveStopRoom_of_none (none : m.givenRoom .engineControl = false) : m.giveStopRoom base = m := by
  rw [Part.giveStopRoom, none, if_neg Bool.false_ne_true]

theorem Part.giveClearRoom_of_none (none : m.givenRoom .engineControl = false) : m.giveClearRoom base = m := by
  unfold Part.giveClearRoom
  split
  · rfl
  · rw [none, if_neg Bool.false_ne_true]

end Passes

/-- An event whose own effect is none, in any engine state. -/
theorem State.onPart_passes (s : State) (f : Word → Part → Part) (released : s.window.resetAsserted = false)
    (none : f s.window.base s.part.tick = s.part.tick) :
    s.onPart f = s.ends s.part.tick ∧ (s.onPart fun base => Part.whileWorking (f base)) = s.ends s.part.tick := by
  refine ⟨by rw [s.onPart_ends f released, none], ?_⟩
  rw [s.onPart_ends _ released, Part.whileWorking, none, ite_self]

/-- A command that gives room to a producer that is not first in line only passes (R160). -/
theorem exec_givesNoRoom (s : State) (c : Instr) (who : Producer) (released : s.window.resetAsserted = false)
    (gives : givesRoomTo c = some who) (none : s.part.tick.givenRoom who = false) :
    exec c s = .next (s.ends s.part.tick) := by
  have quiet (f : Word → Part → Part) (nothing : f s.window.base s.part.tick = s.part.tick) :
      (.next (s.onPart f) : Result) = .next (s.ends s.part.tick) :=
    congrArg Host.Outcome.next (s.onPart_passes f released nothing).1
  have idle (f : Word → Part → Part) (nothing : f s.window.base s.part.tick = s.part.tick) :
      (.next (s.onPart fun base => Part.whileWorking (f base)) : Result) = .next (s.ends s.part.tick) :=
    congrArg Host.Outcome.next (s.onPart_passes f released nothing).2
  cases c <;> cases gives
  case deferredRunCompletion => exact idle _ (Part.giveJobRoom_of_none _ _ _ none)
  case deferredPostEntry => exact idle _ (Part.givePostRoom_of_none _ _ none)
  case deferredDeliveryEntry => exact idle _ (Part.giveTreeRoom_of_none _ _ _ none)
  case deferredTableRecordEntry => exact idle _ (Part.giveClaimRoom_of_none _ _ none)
  case deferredSweepEntry => exact idle _ (Part.giveSweepRoom_of_none _ _ none)
  case deferredAdoptionEntry => exact quiet _ (Part.giveAdoptionRoom_of_none _ _ none)
  case deferredStopSequenceEntry => exact idle _ (Part.giveStopRoom_of_none _ _ none)
  case deferredClearTalliesEntry => exact quiet _ (Part.giveClearRoom_of_none _ _ none)

/-- Settles O48: the jobs by their kinds, with room at once and with room given; the tasks of the tree; and the commands
that only pass. -/
theorem slotManagerGoesOnWithRoom : Obligations.SlotManagerGoesOnWithRoom := by
  unfold Obligations.SlotManagerGoesOnWithRoom
  intro takes expires noEntry noExpiry
  have does (m : Part) (base : Word) (k : JobKind) : takes m base k (m.doJob base k) := by
    refine ⟨fun p w e kind work ending => ?_, fun n kind => ?_, fun n kind => ?_, fun n notify kind => ?_⟩
    · subst kind
      exact (m.takeEnding_eq base p w e work ending).trans (by rw [Run.completion_eq]; rfl)
    · subst kind
      rfl
    · subst kind
      show m.queueTakeWord base n = _
      rw [Part.queueTakeWord, Order.stateAtTake_eq]
      rfl
    · subst kind
      exact m.queueRejection_eq base n notify
  refine ⟨fun m base j rest noTree jobs => ?_, fun s since released working given => ?_,
    fun s c who released gives none => ?_⟩
  · have step := m.jobStep_cons base j rest noTree jobs
    refine ⟨fun n kind => ?_, fun entry => ?_⟩
    · rw [step, kind]
      rfl
    have queues : j.kind.queues = true := (JobKind.queues_iff j.kind).2 (entry j (List.mem_singleton_self j))
    have may := m.mayQueue_iff .slotManager
    rw [queues, Bool.not_true, Bool.false_or] at step
    refine ⟨fun ready room => ⟨_, step.trans (if_pos (may.2 ⟨ready, room⟩)), does _ base j.kind⟩, fun waits => ?_⟩
    have later : ¬m.mayQueue .slotManager = true := fun yes =>
      waits.elim (may.1 yes).1 fun noRoom => noRoom (may.1 yes).2
    rw [if_neg later] at step
    refine ⟨fun before after n k split noExpiries => ?_, fun noExpiries => ?_⟩
    · have first := firstExpiry_of_first (j :: before) after n k fun i mem =>
        (List.mem_cons.1 mem).elim (fun same => same ▸ entry j (List.mem_singleton_self j)) (noExpiries i)
      rw [split, show j :: (before ++ ⟨.expiry n, k⟩ :: after) = j :: before ++ ⟨.expiry n, k⟩ :: after from rfl,
        first] at step
      exact step
    · have none := firstExpiry_of_none (j :: rest) fun i mem =>
        (List.mem_cons.1 mem).elim (fun same => same ▸ entry j (List.mem_singleton_self j)) (noExpiries i)
      rw [none] at step
      exact ⟨fun yes => step.trans (m.startWait_of_waiting _ _ yes),
        fun no => step.trans (m.startWait_of_notWaiting _ _ no)⟩
  · intro others
    have room : s.part.tick.givenRoom .slotManager = true := (s.part.givenRoom_iff .slotManager).2 ⟨since, given⟩
    refine ⟨fun j before rest expiries noTree jobs => ?_, fun n rest tree => ?_, fun n task why rest is tree taken => ?_⟩
    · intro m
      have gives (kind : JobKind → Bool) (queues : j.kind.queues = true) (asked : kind j.kind = true) :
          s.part.tick.giveJobRoom s.window.base kind = m.doJob s.window.base j.kind :=
        s.part.tick.giveJobRoom_eq s.window.base kind before rest j noTree room jobs expiries queues asked
      refine ⟨fun ⟨p, kind⟩ => ⟨_, ?_, does m s.window.base j.kind⟩, fun ⟨n, kind⟩ => ⟨_, ?_, does m s.window.base j.kind⟩⟩
      · rw [exec_deferredRunCompletion s released working, gives _ (by rw [kind]; rfl) (by rw [kind]; rfl)]
      · have post : j.kind.queues = true ∧ j.kind.isPost = true := by
          rcases kind with kind | kind | ⟨notify, kind⟩ <;> rw [kind] <;> exact ⟨rfl, rfl⟩
        rw [exec_deferredPostEntry s released working, s.part.tick.givePostRoom_of_noTree s.window.base noTree,
          gives _ post.1 post.2]
    · rw [exec_deferredPostEntry s released working, s.part.tick.givePostRoom_of_tree s.window.base _ rest tree,
        s.part.tick.giveTreeRoom_eq s.window.base _ _ rest tree room rfl rfl]
      rfl
    · have queues : s.part.tick.taskQueues task = true :=
        (s.part.taskQueues_iff task).2 (Or.inr ⟨n, is.imp And.left And.left, taken⟩)
      have follower : (!task.isWord) = true := by rcases is with ⟨rfl, -⟩ | ⟨rfl, -⟩ <;> rfl
      rw [exec_deferredDeliveryEntry s released working,
        s.part.tick.giveTreeRoom_eq s.window.base _ task rest tree room follower queues]
      obtain ⟨failed, left⟩ :=
        Part.doTask_follower (({ s.part.tick with tree := rest } : Part).endWait .slotManager) s.window.base n
      rcases is with ⟨rfl, rfl⟩ | ⟨rfl, rfl⟩
      · rw [failed]
        exact congrArg (fun m => Host.Outcome.next (s.ends m)) (if_pos taken)
      · rw [left]
        exact congrArg (fun m => Host.Outcome.next (s.ends m)) (if_pos taken)
  · have room : s.part.tick.givenRoom who = false :=
      Bool.eq_false_iff.2 fun yes => (s.part.givenRoom_iff who).1 yes |>.elim none
    exact exec_givesNoRoom s c who released gives room

end Sys2Proof.Machine

/-! PROOF. The inputs of the claim unit, with room (R51 to R65, R118, R119, R160). -/

namespace Sys2Proof.Machine

/-! ### Replies (R112, R122, R124) -/

/-- A serving port with its reply: held in TURNAROUND or sent; a broadcast only ends. -/
def Port.replied (x : Port) (body : List Byte) : Port :=
  if x.service.broadcast = true then { x with activity := .idle, memStep := .none }
  else
    let answer := frameProper x.service.station (replyKind x.service.kind) x.service.tag body
    let y : Port := { x with
      answerBuffer := answer
      replay := some ⟨x.service.kind, x.service.tag, x.service.check, answer⟩
      service := { x.service with result := .reply } }
    if x.answerDelay = true then { y with activity := .turnaround, memStep := .none }
    else { y with
      activity := .replying, memStep := .none, tx := some .answer, silence := false
      receiver := { state := .hunt, buffer := [], bodyLength := none, check := 0xFFFF } }

theorem Part.reply_eq (m : Part) (p : PortNo) (body : List Byte) :
    m.reply p body = m.setPort p ((m.port p).replied body) := by
  unfold Part.reply Port.replied
  dsimp only
  by_cases broadcast : (m.port p).service.broadcast = true
  · rw [if_pos broadcast, if_pos broadcast]
    rfl
  · rw [if_neg broadcast, if_neg broadcast, Part.enterTurnaround_eq, Part.onPort, Part.port_setPort, Part.setPort_setPort]

theorem Part.port_reply (m : Part) (p : PortNo) (body : List Byte) :
    (m.reply p body).port p = (m.port p).replied body := by rw [Part.reply_eq, Part.port_setPort]

/-- The reply body of a store or modify (Table 4-8). -/
theorem Port.storedBody_eq (x : Port) : x.storedBody = [x.service.table] ++ halfBytes x.service.index ++
    if x.service.kind = 0x15 then
      halfBytes x.oldValue ++ halfBytes ((x.oldValue &&& x.service.andMask) ||| x.service.orMask)
    else halfBytes x.service.count := by
  by_cases modify : x.service.kind = 0x15
  · simp [Port.storedBody, kindModifyWord, modify, modifiedWord]
  · have other : (x.service.kind == kindModifyWord) = false := beq_eq_false_iff_ne.2 modify
    rw [Port.storedBody, other, if_neg Bool.false_ne_true, if_neg modify]
    rfl

/-! ### A store applied (R63, R65, R118) -/

/-- The record of a store or modify of port `p` in its table. -/
def Part.storeRecord (m : Part) (p : PortNo) : TableRecord :=
  { m.table (tableNo (m.port p).service.table) with
    storeTally := (m.table (tableNo (m.port p).service.table)).storeTally + 1
    lastStore := ⟨BitVec.ofNat 8 p.val, (m.port p).service.kind, (m.port p).service.tag, (m.port p).service.index,
      (m.port p).service.count⟩ }

theorem Part.recordStore_eq (m : Part) (base : Word) (p : PortNo) :
    let t := tableNo (m.port p).service.table
    m.recordStore base p = { m.setTable t (m.storeRecord p) with
      xq := m.xq ++ [tableRecordEntry base t (m.storeRecord p)]
      causes := if (m.tableEntry t).notify.getLsbD 0 = true then m.causes ||| 2 else m.causes } := by
  intro t
  have queued : (m.setTable t (m.storeRecord p)).queueTableRecord base t = { m.setTable t (m.storeRecord p) with
      xq := m.xq ++ [tableRecordEntry base t (m.storeRecord p)] } := by
    rw [Part.queueTableRecord, Part.table_setTable]
    rfl
  unfold Part.recordStore
  by_cases notifies : (m.tableEntry t).notify.getLsbD 0 = true
  · rw [if_pos notifies]
    exact (if_pos notifies).trans (congrArg (Part.setCause .storeNotify) queued)
  · rw [if_neg notifies]
    exact (if_neg notifies).trans queued

/-- After a store: the record, its entry, STORE_NOTIFY, the claim released, before or behind what has been held back, and
the reply. -/
theorem Part.storeApplied_eq (m : Part) (base : Word) (p : PortNo) :
    ∃ inbox, (inbox = .leave p :: m.inbox ∨ inbox = m.inbox ++ [.leave p]) ∧
      m.storeApplied base p =
        ({ m.recordStore base p with inbox := inbox } : Part).setPort p ((m.port p).replied (m.port p).storedBody) := by
  have ports : (m.recordStore base p).ports = m.ports := m.recordStore_ports base p
  have inbox : (m.recordStore base p).inbox = m.inbox := by
    rw [Part.recordStore_eq]
    rfl
  have replies (l : List ClaimInput) : ({ m.recordStore base p with inbox := l } : Part).reply p
      (({ m.recordStore base p with inbox := l } : Part).port p).storedBody =
      ({ m.recordStore base p with inbox := l } : Part).setPort p ((m.port p).replied (m.port p).storedBody) := by
    have same : ({ m.recordStore base p with inbox := l } : Part).port p = m.port p :=
      congrArg (fun v : Vector Port 4 => v.get p) ports
    rw [Part.reply_eq, same]
  unfold Part.storeApplied
  dsimp only
  cases held : (m.recordStore base p).inbox with
  | nil => exact ⟨[.leave p], Or.inl (by rw [← inbox, held]), replies _⟩
  | cons i rest =>
    dsimp only
    by_cases first : Config.leaveFirst (m.recordStore base p).eventNo p.val = true
    · rw [if_pos first]
      exact ⟨.leave p :: i :: rest, Or.inl (by rw [← inbox, held]), replies _⟩
    · rw [if_neg first]
      exact ⟨i :: rest ++ [.leave p], Or.inr (by rw [← inbox, held]), replies _⟩

/-! ### The inputs one by one -/

section Inputs
variable (m : Part) (base : Word) (i : ClaimInput) (rest : List ClaimInput) (inbox : m.inbox = i :: rest)
include inbox

theorem Part.claimStep_queues (queues : m.inputQueues i = true) :
    m.claimStep base = if m.mayQueue .claimUnit then some (({ m with inbox := rest } : Part).doInput base i)
      else m.startWait .claimUnit m.eventNo := by
  unfold Part.claimStep
  rw [inbox]
  simp only [queues, Bool.true_and, Part.mayQueue, Part.startWait]
  by_cases waits : m.waits .claimUnit = true
  · simp [waits]
  · by_cases room : m.hasRoom = true <;> simp [waits, room]

theorem Part.claimStep_free (noEntry : m.inputQueues i = false) (ready : ¬m.isWaiting .claimUnit) :
    m.claimStep base = some (({ m with inbox := rest } : Part).doInput base i) := by
  unfold Part.claimStep
  rw [inbox]
  simp only [noEntry, Bool.false_and, Bool.false_eq_true, if_false]
  exact if_neg (mt (m.isWaiting_iff .claimUnit).2 ready)

end Inputs

/-! ### Hold posts (R60, R61) -/

theorem Part.setTable_setTable (m : Part) (t : TableNo) (x y : TableRecord) :
    (m.setTable t x).setTable t y = m.setTable t y := by
  simp [Part.setTable]

/-- The record entry of a table whose record is known. -/
theorem Part.queueTableRecord_eq (m : Part) (base : Word) (t : TableNo) (x : TableRecord) (record : m.table t = x) :
    m.queueTableRecord base t = { m with xq := m.xq ++ [tableRecordEntry base t x] } := by
  rw [Part.queueTableRecord, record]
  rfl

/-- A hold conflicts with every claim, and so is granted only in an empty list. -/
theorem grantable_hold_iff (bits : Bool) (l : List Claim) (c : Claim) (hold : c.mode = .hold) :
    grantable bits l c [] = true ↔ l = [] := by
  rw [grantable_tail_iff]
  constructor
  · intro free
    cases l with
    | nil => rfl
    | cons d l =>
      have conflicts : conflict bits c d = true := by simp [conflict, hold]
      exact absurd (conflicts.symm.trans (free d (List.mem_cons_self ..))) Bool.noConfusion
  · rintro rfl d mem
    cases mem

section HoldPost
variable (m : Part) (base : Word) (t : TableNo) (wanted : Byte) (post : Half)

/-- The record of a table with a hold post seen. -/
def Part.holdSeen : TableRecord := { m.table t with seenHold := post }

theorem Part.takeHoldPost_held (wants : wanted = 1) (held : m.holdClaimed t = true) :
    m.takeHoldPost base t wanted post = (m.setTable t (m.holdSeen t post)).queueTableRecord base t := by
  have wants' : (wanted == 1) = true := beq_iff_eq.2 wants
  unfold Part.takeHoldPost
  dsimp only
  rw [if_pos wants']
  exact congrArg (fun k : Part => k.queueTableRecord base t) (if_pos held)

theorem Part.takeHoldPost_arrives (wants : wanted = 1) (free : m.holdClaimed t = false) :
    m.takeHoldPost base t wanted post =
      ((m.setTable t { m.holdSeen t post with holdState := .pending }).claimArrives t (m.holdClaim t)).queueTableRecord
        base t := by
  have wants' : (wanted == 1) = true := beq_iff_eq.2 wants
  have none : ¬m.holdClaimed t = true := by simp [free]
  unfold Part.takeHoldPost
  dsimp only
  rw [if_pos wants', Part.table_setTable, Part.setTable_setTable]
  exact congrArg (fun k : Part => k.queueTableRecord base t) (if_neg none)

theorem Part.takeHoldPost_leaves (frees : wanted ≠ 1) (held : m.holdClaimed t = true) :
    m.takeHoldPost base t wanted post =
      ((m.setTable t { m.holdSeen t post with holdState := .free }).claimLeaves t .hold).queueTableRecord base t := by
  have frees' : ¬(wanted == 1) = true := by simpa using frees
  unfold Part.takeHoldPost
  dsimp only
  rw [if_neg frees', Part.table_setTable, Part.setTable_setTable]
  exact congrArg (fun k : Part => k.queueTableRecord base t) (if_pos held)

theorem Part.takeHoldPost_frees (frees : wanted ≠ 1) (free : m.holdClaimed t = false) :
    m.takeHoldPost base t wanted post =
      (m.setTable t { m.holdSeen t post with holdState := .free }).queueTableRecord base t := by
  have frees' : ¬(wanted == 1) = true := by simpa using frees
  have none : ¬m.holdClaimed t = true := by simp [free]
  unfold Part.takeHoldPost
  dsimp only
  rw [if_neg frees', Part.table_setTable, Part.setTable_setTable]
  exact congrArg (fun k : Part => k.queueTableRecord base t) (if_neg none)

/-- The claim of a hold arrives: HELD in an empty list, behind the other claims in any other. -/
theorem Part.claimArrives_hold (x : TableRecord) :
    (m.setTable t x).claimArrives t (m.holdClaim t) =
      if m.claimList t = [] then
        (m.setClaimList t [{ m.holdClaim t with granted := true }]).setTable t { x with holdState := .held }
      else (m.setTable t x).setClaimList t (m.claimList t ++ [m.holdClaim t]) := by
  have grants := grantable_hold_iff (m.tableEntry t).isBits (m.claimList t) (m.holdClaim t) rfl
  unfold Part.claimArrives
  by_cases empty : m.claimList t = []
  · rw [if_pos empty]
    refine (if_pos (grants.2 empty)).trans ?_
    show ((m.setTable t x).setClaimList t (m.claimList t ++ [{ m.holdClaim t with granted := true }])).setTable t
      { (m.setTable t x).table t with holdState := .held } = _
    rw [empty, Part.table_setTable]
    exact (m.setClaimList t [{ m.holdClaim t with granted := true }]).setTable_setTable t x _
  · rw [if_neg empty]
    exact if_neg (mt grants.1 empty)

end HoldPost

/-! ### Releases (R54, R55, R60) -/

theorem Part.claimTable_of_only (m : Part) (p : PortNo) (t : TableNo) (here : ∃ c ∈ m.claimList t, c.claimant = .port p)
    (nowhere : ∀ u, u ≠ t → ∀ c ∈ m.claimList u, c.claimant ≠ .port p) : m.claimTable p = some t := by
  refine find?_of_first _ _ t allTables_sorted (mem_allTables t) ?_ fun u before => ?_
  · simpa using here
  · simpa using nowhere u (Fin.ne_of_lt before)

/-- From `m`, a claimant's claim has left the list of a table, with the grants of R54, and the part is `n`. -/
def Part.leavesTo (m n : Part) (t : TableNo) (who : Claimant) : Prop :=
  let l := (m.claimList t).filter fun c => c.claimant != who
  grantsByRule (decide ((m.tableEntry t).kind = 1)) l (n.claimList t) ∧
    (∀ u, u ≠ t → n.table u = m.table u ∧ n.claimList u = m.claimList u) ∧
    (∀ q, becomesGranted l (n.claimList t) (.port q) → n.port q = (m.claimGranted q).port q) ∧
    (∀ q, ¬becomesGranted l (n.claimList t) (.port q) → n.port q = m.port q) ∧
    n.inbox = m.inbox ∧ n.waiters = m.waiters ∧ n.causes = m.causes ∧ n.slots = m.slots

/-- A claim leaves a part whose record of the table may have changed first, and an entry may be queued after. -/
theorem Part.leavesTo_claimLeaves (m k : Part) (t : TableNo) (who : Claimant) (xq : List Entry)
    (same : k = { m with tables := k.tables }) (others : ∀ u, u ≠ t → k.table u = m.table u) :
    m.leavesTo { k.claimLeaves t who with xq := xq } t who := by
  obtain ⟨rule, rest, ports, -, -, whole⟩ := k.claimLeaves_spec t who
  have setup : k.setup = m.setup := (congrArg Part.setup same).trans rfl
  have lists (u : TableNo) : k.claimList u = m.claimList u := (congrArg (fun x : Part => x.claimList u) same).trans rfl
  have port (q : PortNo) : k.port q = m.port q := (congrArg (fun x : Part => x.port q) same).trans rfl
  have entry : k.tableEntry t = m.tableEntry t := (congrArg (fun x : Part => x.tableEntry t) same).trans rfl
  rw [lists t] at rule ports
  rw [entry] at rule
  refine ⟨rule, fun u other => ⟨((rest u other).2).trans (others u other), ((rest u other).1).trans (lists u)⟩,
    fun q grant => ((ports q).1 grant).trans (Part.claimGranted_local m k q setup (port q)),
    fun q no => ((ports q).2 no).trans (port q), ?_, ?_, ?_, ?_⟩
  · exact ((congrArg Part.inbox whole).trans rfl).trans ((congrArg Part.inbox same).trans rfl)
  · exact ((congrArg Part.waiters whole).trans rfl).trans ((congrArg Part.waiters same).trans rfl)
  · exact ((congrArg Part.causes whole).trans rfl).trans ((congrArg Part.causes same).trans rfl)
  · exact ((congrArg Part.slots whole).trans rfl).trans ((congrArg Part.slots same).trans rfl)

/-- A port's release: its claim leaves, and the entry is queued when a pending hold becomes HELD. -/
theorem Part.portLeaves_spec (m : Part) (base : Word) (p : PortNo) (t : TableNo) (table : m.claimTable p = some t) :
    let n := m.portLeaves base p
    let hold := becomesGranted ((m.claimList t).filter fun c => c.claimant != .port p) (n.claimList t) .hold
    let x : TableRecord := { m.table t with holdState := .held }
    (m.leavesTo n t (.port p) ∧ (hold → n.table t = x ∧ n.xq = m.xq ++ [tableRecordEntry base t x]) ∧
      (¬hold → n.table t = m.table t ∧ n.xq = m.xq)) ∧
    (m.leaveGrantsHold p = true ↔ hold) ∧ n.jobs = m.jobs ∧ n.eventNo = m.eventNo ∧ n.sweep = m.sweep := by
  intro n hold x
  obtain ⟨-, -, -, held, kept, rest⟩ := m.claimLeaves_spec t (.port p)
  have queued : (m.claimLeaves t (.port p)).xq = m.xq := (congrArg Part.xq rest).trans rfl
  have grants := m.leaveGrantsHold_iff p t table
  have leaves (xq : List Entry) := m.leavesTo_claimLeaves m t (.port p) xq rfl fun _ _ => rfl
  have quiet (xq : List Entry) : ({ m.claimLeaves t (.port p) with xq := xq } : Part).jobs = m.jobs ∧
      ({ m.claimLeaves t (.port p) with xq := xq } : Part).eventNo = m.eventNo ∧
      ({ m.claimLeaves t (.port p) with xq := xq } : Part).sweep = m.sweep :=
    ⟨(congrArg Part.jobs rest).trans rfl, (congrArg Part.eventNo rest).trans rfl, (congrArg Part.sweep rest).trans rfl⟩
  by_cases yes : m.leaveGrantsHold p = true
  · have whole : n = { m.claimLeaves t (.port p) with xq := m.xq ++ [tableRecordEntry base t x] } := by
      rw [show n = _ from m.portLeaves_eq base p t table, if_pos yes,
        Part.queueTableRecord_eq _ base t x (held (grants.1 yes)), queued]
    have isHold : hold := by
      show becomesGranted _ (n.claimList t) .hold
      rw [whole]
      exact grants.1 yes
    refine ⟨⟨whole ▸ leaves _, fun _ => ?_, fun no => absurd isHold no⟩, ⟨fun _ => isHold, fun _ => yes⟩, whole ▸ quiet _⟩
    rw [whole]
    exact ⟨held (grants.1 yes), rfl⟩
  · have whole : n = { m.claimLeaves t (.port p) with xq := m.xq } := by
      rw [show n = _ from m.portLeaves_eq base p t table, if_neg yes, ← queued]
    have noHold : ¬hold := by
      show ¬becomesGranted _ (n.claimList t) .hold
      rw [whole]
      exact mt grants.2 yes
    refine ⟨⟨whole ▸ leaves _, fun some => absurd some noHold, fun _ => ?_⟩,
      ⟨fun some => absurd some yes, fun some => absurd some noHold⟩, whole ▸ quiet _⟩
    rw [whole]
    exact ⟨kept (mt grants.2 yes), rfl⟩

theorem exec_deferredTableRecordEntry (s : State) (since : Nat) (i : ClaimInput) (rest : List ClaimInput)
    (released : s.window.resetAsserted = false) (working : s.part.engine.working = true)
    (given : s.part.firstInLine .claimUnit since) (inbox : s.part.inbox = i :: rest) :
    exec .deferredTableRecordEntry s =
      .next (s.ends ((({ s.part.tick with inbox := rest } : Part).endWait .claimUnit).doInput s.window.base i)) := by
  have room : s.part.tick.givenRoom .claimUnit = true := (s.part.givenRoom_iff .claimUnit).2 ⟨since, given⟩
  have effect : s.part.tick.giveClaimRoom s.window.base =
      (({ s.part.tick with inbox := rest } : Part).endWait .claimUnit).doInput s.window.base i := by
    unfold Part.giveClaimRoom
    rw [show s.part.tick.inbox = i :: rest from inbox]
    exact if_pos room
  rw [← effect]
  exact congrArg Host.Outcome.next (s.onPart_whileWorking (fun base m => m.giveClaimRoom base) released working)

end Sys2Proof.Machine

/-! PROOF. The claim unit goes on with room: stores, hold posts, releases and expiries (R55 to R65, R118, R119, R160). -/

namespace Sys2Proof.Machine

/-- The bytes of a table record (Table 12-6). -/
theorem tableRecordBytes_eq (x : TableRecord) : tableRecordBytes x =
    [x.holdState.code, 0, x.seenHold.extractLsb' 0 8, x.seenHold.extractLsb' 8 8, x.storeTally.extractLsb' 0 8,
      x.storeTally.extractLsb' 8 8, 0, 0, x.lastStore.port, x.lastStore.kind, x.lastStore.tag,
      x.lastStore.index.extractLsb' 0 8, x.lastStore.index.extractLsb' 8 8, x.lastStore.count.extractLsb' 0 8,
      x.lastStore.count.extractLsb' 8 8, 0] := rfl

theorem Part.not_holdClaimed_iff (m : Part) (t : TableNo) :
    m.holdClaimed t = false ↔ ¬∃ c ∈ m.claimList t, c.claimant = .hold := by
  rw [← m.holdClaimed_iff, Bool.not_eq_true]

/-- From `m`, a changed hold post of a table has been taken, and the part is `n` (R60, R61). -/
def Part.postsTo (m : Part) (base : Word) (t : TableNo) (wanted : Byte) (post : Half) (n : Part) : Prop :=
  let l := m.claimList t
  let held : Prop := ∃ c ∈ l, c.claimant = .hold
  let claim (granted : Bool) : Claim := ⟨.hold, .hold, 0, (m.tableEntry t).length.toNat, granted⟩
  n.xq = m.xq ++ [tableRecordEntry base t (n.table t)] ∧
    (wanted ≠ 1 → n.table t = { m.holdSeen t post with holdState := .free } ∧ (held → m.leavesTo n t .hold)) ∧
    (wanted = 1 ∨ ¬held →
      (∀ u, u ≠ t → n.table u = m.table u ∧ n.claimList u = m.claimList u) ∧ n.ports = m.ports ∧
      n.inbox = m.inbox ∧ n.waiters = m.waiters ∧ n.causes = m.causes ∧ n.slots = m.slots) ∧
    (wanted ≠ 1 → ¬held → n.claimList t = l) ∧
    (wanted = 1 →
      (held → n.claimList t = l ∧ n.table t = m.holdSeen t post) ∧
      (¬held → l = [] → n.claimList t = [claim true] ∧ n.table t = { m.holdSeen t post with holdState := .held }) ∧
      (¬held → l ≠ [] →
        n.claimList t = l ++ [claim false] ∧ n.table t = { m.holdSeen t post with holdState := .pending }))

theorem Part.takeHoldPost_postsTo (m : Part) (base : Word) (t : TableNo) (wanted : Byte) (post : Half) :
    m.postsTo base t wanted post (m.takeHoldPost base t wanted post) := by
  have claimedIff := m.holdClaimed_iff t
  have freeIff := m.not_holdClaimed_iff t
  have record (y : TableRecord) : (m.setTable t y).table t = y := Part.table_setTable m t y
  have otherRecords (y : TableRecord) u (other : u ≠ t) : (m.setTable t y).table u = m.table u :=
    Part.table_setTable_of_ne m t u y (Ne.symm other)
  by_cases wants : wanted = 1 <;> by_cases held : m.holdClaimed t = true
  · rw [m.takeHoldPost_held base t wanted post wants held, Part.queueTableRecord_eq _ base t _ (record _)]
    refine ⟨congrArg (fun y => m.xq ++ [tableRecordEntry base t y]) (record _).symm, fun no => absurd wants no,
      fun _ => ⟨fun u other => ⟨otherRecords _ u other, rfl⟩, rfl, rfl, rfl, rfl, rfl⟩, fun no => absurd wants no,
      fun _ => ⟨fun _ => ⟨rfl, record _⟩, fun no => absurd (claimedIff.1 held) no,
        fun no => absurd (claimedIff.1 held) no⟩⟩
  · have free : m.holdClaimed t = false := Bool.eq_false_iff.2 held
    have arrives := m.takeHoldPost_arrives base t wanted post wants free
    rw [m.claimArrives_hold t _] at arrives
    have noHold := freeIff.1 free
    by_cases empty : m.claimList t = []
    · rw [if_pos empty, Part.queueTableRecord_eq _ base t _ (Part.table_setTable _ t _)] at arrives
      have list : (m.setClaimList t [{ m.holdClaim t with granted := true }]).claimList t =
          [{ m.holdClaim t with granted := true }] := m.claimList_setClaimList t _
      have record' := (m.setClaimList t [{ m.holdClaim t with granted := true }]).table_setTable t
        { m.holdSeen t post with holdState := .held }
      rw [arrives]
      exact ⟨congrArg (fun y => m.xq ++ [tableRecordEntry base t y]) record'.symm, fun no => absurd wants no,
        fun _ => ⟨fun u other => ⟨otherRecords _ u other, m.claimList_setClaimList_of_ne t u _ (Ne.symm other)⟩, rfl, rfl,
          rfl, rfl, rfl⟩,
        fun no => absurd wants no, fun _ => ⟨fun some => absurd some noHold, fun _ _ => ⟨list, record'⟩,
          fun _ some => absurd empty some⟩⟩
    · have record' : ((m.setTable t { m.holdSeen t post with holdState := .pending }).setClaimList t
          (m.claimList t ++ [m.holdClaim t])).table t = { m.holdSeen t post with holdState := .pending } := record _
      rw [if_neg empty, Part.queueTableRecord_eq _ base t _ record'] at arrives
      have list : (m.setClaimList t (m.claimList t ++ [m.holdClaim t])).claimList t = m.claimList t ++ [m.holdClaim t] :=
        m.claimList_setClaimList t _
      rw [arrives]
      exact ⟨congrArg (fun y => m.xq ++ [tableRecordEntry base t y]) record'.symm, fun no => absurd wants no,
        fun _ => ⟨fun u other => ⟨otherRecords _ u other, m.claimList_setClaimList_of_ne t u _ (Ne.symm other)⟩, rfl, rfl,
          rfl, rfl, rfl⟩,
        fun no => absurd wants no, fun _ => ⟨fun some => absurd some noHold, fun _ none => absurd none empty,
          fun _ _ => ⟨list, record'⟩⟩⟩
  · let freed := m.setTable t { m.holdSeen t post with holdState := .free }
    obtain ⟨rule, -, -, -, kept, rest⟩ := freed.claimLeaves_spec t .hold
    have record' : (freed.claimLeaves t .hold).table t = { m.holdSeen t post with holdState := .free } :=
      (kept (not_becomesGranted_of_left .hold rule)).trans (record _)
    have queued : (freed.claimLeaves t .hold).xq = m.xq := (congrArg Part.xq rest).trans rfl
    have left := m.takeHoldPost_leaves base t wanted post wants held
    rw [Part.queueTableRecord_eq _ base t _ record', queued] at left
    rw [left]
    exact ⟨congrArg (fun y => m.xq ++ [tableRecordEntry base t y]) record'.symm,
      fun _ => ⟨record', fun _ => m.leavesTo_claimLeaves freed t .hold _ rfl fun u other => otherRecords _ u other⟩,
      fun no => no.elim (fun yes => absurd yes wants) fun none => absurd (claimedIff.1 held) none,
      fun _ none => absurd (claimedIff.1 held) none, fun yes => absurd yes wants⟩
  · have noHold := freeIff.1 (Bool.eq_false_iff.2 held)
    rw [m.takeHoldPost_frees base t wanted post wants (Bool.eq_false_iff.2 held),
      Part.queueTableRecord_eq _ base t _ (record _)]
    exact ⟨congrArg (fun y => m.xq ++ [tableRecordEntry base t y]) (record _).symm,
      fun _ => ⟨record _, fun some => absurd some noHold⟩,
      fun _ => ⟨fun u other => ⟨otherRecords _ u other, rfl⟩, rfl, rfl, rfl, rfl, rfl⟩, fun _ _ => rfl,
      fun yes => absurd yes wants⟩

/-- Settles O50: the record bytes, and each input by what it does, with room at once and with room given. -/
theorem storeIsRecordedWithRoom : Obligations.StoreIsRecordedWithRoom := by
  unfold Obligations.StoreIsRecordedWithRoom
  intro entry stores leaves posts releases onlyIn waitsIn
  have isStored (m : Part) (base : Word) (p : PortNo) : stores m base p (m.storeApplied base p) := by
    obtain ⟨inbox, order, applied⟩ := m.storeApplied_eq base p
    rw [applied, m.recordStore_eq base p]
    refine ⟨Part.table_setTable m _ _, fun u other => Part.table_setTable_of_ne m _ u _ (Ne.symm other), rfl, rfl, order,
      ?_, rfl, rfl, rfl, rfl⟩
    rw [Part.port_setPort, Part.port_reply, Port.storedBody_eq]
  have isPosted (m : Part) (base : Word) (t : TableNo) (wanted : Byte) (post : Half) :
      posts m base t wanted post (m.takeHoldPost base t wanted post) := m.takeHoldPost_postsTo base t wanted post
  have isReleased (m : Part) (base : Word) (p : PortNo) (t : TableNo) (only : onlyIn m p t) :
      releases m base t p (m.portLeaves base p) :=
    (m.portLeaves_spec base p t (m.claimTable_of_only p t only.1 only.2)).1
  have entryIff (m : Part) (base : Word) (p : PortNo) (t : TableNo) (only : onlyIn m p t) :
      ((m.portLeaves base p).xq = m.xq → m.leaveGrantsHold p = false) ∧
        ((m.portLeaves base p).xq ≠ m.xq → m.leaveGrantsHold p = true) := by
    obtain ⟨⟨-, queues, quiet⟩, grants, -⟩ := m.portLeaves_spec base p t (m.claimTable_of_only p t only.1 only.2)
    refine ⟨fun same => Bool.eq_false_iff.2 fun yes => ?_, fun more => ?_⟩
    · rw [(queues (grants.1 yes)).2] at same
      simp at same
    · by_contra no
      exact more (quiet (mt grants.2 no)).2
  refine ⟨fun x => ?_, fun m base i rest inbox => ?_, fun s since i rest released working given inbox => ?_⟩
  · rw [tableRecordBytes_eq]
    cases x.holdState <;> rfl
  · intro taken queued free
    have queues (does : m.inputQueues i = true) : queued (taken.doInput base i) :=
      m.queuesOrWaits_of_mayQueue _ _ _ _ (m.claimStep_queues base i rest inbox does)
    have goes (none : m.inputQueues i = false) : free (taken.doInput base i) :=
      m.claimStep_free base i rest inbox none
    refine ⟨fun p input => ?_, fun t wanted post input => ?_, fun p t input only => ?_, fun p input => ⟨?_, ?_⟩⟩
    · subst input
      exact ⟨_, queues rfl, isStored taken base p⟩
    · subst input
      refine ⟨fun same => ?_, fun new => ⟨_, ?_, isPosted taken base t wanted post⟩⟩
      · have nothing : taken.doInput base (.holdPost t wanted post) = taken := if_pos (beq_iff_eq.2 same.symm)
        exact nothing ▸ goes (bne_eq_false_iff_eq.2 same.symm)
      · have takes : taken.doInput base (.holdPost t wanted post) = taken.takeHoldPost base t wanted post :=
          if_neg fun same => new (beq_iff_eq.1 same).symm
        exact takes ▸ queues (bne_iff_ne.2 (Ne.symm new))
    · subst input
      obtain ⟨grants, asks⟩ := entryIff taken base p t only
      exact ⟨_, isReleased taken base p t only, fun same => goes (grants same), fun more => queues (asks more)⟩
    · subst input
      intro gone
      have idle : ¬m.waitLimitRuns p = true := mt (m.waitLimitRuns_iff p).1 gone
      have nothing : taken.doInput base (.expire p) = taken := if_neg idle
      refine nothing ▸ goes ?_
      rw [Part.inputQueues, Bool.eq_false_iff.2 idle, Bool.false_and]
    · subst input
      intro t waits only
      have runs : m.waitLimitRuns p = true := (m.waitLimitRuns_iff p).2 waits
      have asks' : m.inputQueues (.expire p) = m.leaveGrantsHold p := by
        rw [Part.inputQueues, runs, Bool.true_and]
      have expires : taken.doInput base (.expire p) = (taken.portLeaves base p).claimTimedOut p := if_pos runs
      obtain ⟨leaves', -, jobs, event, sweep⟩ := taken.portLeaves_spec base p t (taken.claimTable_of_only p t only.1 only.2)
      obtain ⟨grants, asks⟩ := entryIff taken base p t only
      exact ⟨_, _, leaves', jobs, event, sweep, Part.claimTimedOut_timesOut _ p,
        fun same => expires ▸ goes (asks'.trans (grants same)), fun more => expires ▸ queues (asks'.trans (asks more))⟩
  · intro taken becomes
    have does : becomes (taken.doInput s.window.base i) :=
      exec_deferredTableRecordEntry s since i rest released working given inbox
    refine ⟨fun p input => ?_, fun t wanted post input new => ?_, fun p t input only => ?_, fun p t input waits only => ?_⟩
    · subst input
      exact ⟨_, does, isStored taken s.window.base p⟩
    · subst input
      have takes : taken.doInput s.window.base (.holdPost t wanted post) =
          taken.takeHoldPost s.window.base t wanted post :=
        if_neg fun same => new (beq_iff_eq.1 same).symm
      exact ⟨_, takes ▸ does, isPosted taken s.window.base t wanted post⟩
    · subst input
      exact ⟨_, does, isReleased taken s.window.base p t only⟩
    · subst input
      have runs : taken.waitLimitRuns p = true := (Part.waitLimitRuns_iff taken p).2 waits
      have expires : taken.doInput s.window.base (.expire p) = (taken.portLeaves s.window.base p).claimTimedOut p :=
        if_pos runs
      obtain ⟨leaves', -, jobs, event, sweep⟩ :=
        taken.portLeaves_spec s.window.base p t (taken.claimTable_of_only p t only.1 only.2)
      exact ⟨_, _, expires ▸ does, leaves', jobs, event, sweep, Part.claimTimedOut_timesOut _ p⟩

end Sys2Proof.Machine

/-! PROOF. Requests at a RESPONDER port: validation, the replay check, and what begins to be served (R107 to R116,
R121). -/

namespace Sys2Proof.Machine

/-! ### Validation, step by step (Table 6-4) -/

theorem namesTable_iff (k : Byte) : namesTable k = true ↔ 0x11 ≤ k.toNat ∧ k.toNat ≤ 0x15 := by
  have kinds : namesTable k = true ↔ ((k = 0x11 ∨ k = 0x12) ∨ (k = 0x13 ∨ k = 0x14)) ∨ k = 0x15 := by
    simp [namesTable, isFetch, isStore, kindFetchWords, kindFetchBits, kindStoreWords, kindStoreBits, kindModifyWord,
      or_assoc]
  simp only [kinds, ← BitVec.toNat_inj, BitVec.reduceToNat]
  omega

theorem isWriting_iff (k : Byte) : isWriting k = true ↔ k = 0x13 ∨ k = 0x14 ∨ k = 0x15 := by
  simp [isWriting, isStore, kindStoreWords, kindStoreBits, kindModifyWord, or_assoc]

theorem requestCount_eq (kind : Byte) (body : List Byte) :
    requestCount kind body = if kind = 0x15 then 1 else halfAt body 3 := by
  simp only [requestCount, kindModifyWord, bodyCount, beq_iff_eq]

/-- Table 4-7, for the kinds of requests. -/
theorem requestConsistent_iff (kind : Byte) (body : List Byte) (known : 0x11 ≤ kind.toNat ∧ kind.toNat ≤ 0x17) :
    let count := (halfAt body 3).toNat
    requestConsistent kind body = true ↔
      (kind = 0x11 ∧ body.length = 5 ∧ 1 ≤ count ∧ count ≤ 120) ∨
      (kind = 0x12 ∧ body.length = 5 ∧ 1 ≤ count ∧ count ≤ 960) ∨
      (kind = 0x13 ∧ body.length = 5 + 2 * count ∧ 1 ≤ count ∧ count ≤ 120) ∨
      (kind = 0x14 ∧ body.length = 5 + (count + 7) / 8 ∧ 1 ≤ count ∧ count ≤ 960) ∨
      (kind = 0x15 ∧ body.length = 7) ∨ ((kind = 0x16 ∨ kind = 0x17) ∧ body.length = 0) := by
  rw [show halfAt body 3 = bodyCount body from rfl]
  simp only [requestConsistent, kindFetchWords, kindFetchBits, kindStoreWords, kindStoreBits, kindModifyWord, bitBytes,
    beq_iff_eq]
  by_cases fetchWords : kind = 0x11
  · simp [fetchWords]
  by_cases fetchBits : kind = 0x12
  · simp [fetchBits]
  by_cases storeWords : kind = 0x13
  · simp [storeWords]
    omega
  by_cases storeBits : kind = 0x14
  · simp [storeBits]
    omega
  by_cases modify : kind = 0x15
  · simp [modify]
  · have rest : kind = 0x16 ∨ kind = 0x17 := by
      have notWords := byte_toNat_ne fetchWords
      have notBits := byte_toNat_ne fetchBits
      have notStoreWords := byte_toNat_ne storeWords
      have notStoreBits := byte_toNat_ne storeBits
      have notModify := byte_toNat_ne modify
      simp only [BitVec.reduceToNat, ← BitVec.toNat_inj] at *
      omega
    simp only [fetchWords, fetchBits, storeWords, storeBits, modify, rest, false_and, false_or, true_and, if_false,
      beq_iff_eq]

theorem noTable_iff (dir : Vector TableEntry 8) (kind table : Byte) :
    let e := dir.get (tableNo table)
    noTable dir kind table = true ↔
      ¬(table.toNat ≤ 7 ∧ e.present.getLsbD 0 = true ∧ (e.kind = 1 ↔ kind = 0x12 ∨ kind = 0x14)) := by
  intro e
  rw [← isBitKind_iff, ← TableEntry.isBits_iff]
  by_cases low : table.toNat < 8
  · have low' : table.toNat ≤ 7 := by omega
    have fails : noTable dir kind table = (!e.isPresent || e.isBits != isBitKind kind) := if_pos low
    rw [fails]
    cases e.isBits <;> cases isBitKind kind <;> simp [low', TableEntry.isPresent]
  · have high : ¬table.toNat ≤ 7 := by omega
    simp [noTable, low, high]

theorem accessFails_iff (e : TableEntry) (kind : Byte) (sinh : Bool) : accessFails e kind sinh = true ↔
    ¬(e.access ≠ 0 ∧ (kind = 0x13 ∨ kind = 0x14 ∨ kind = 0x15 → e.access ≠ 1 ∧ sinh = false)) := by
  rw [← isWriting_iff]
  by_cases closed : e.access = 0#8
  · simp [accessFails, closed]
  · cases writing : isWriting kind <;> cases sinh <;> simp [accessFails, closed, writing]

/-- The steps of Table 6-4 in their order, for any reading of what each checks. -/
theorem validate_steps (dir : Vector TableEntry 8) (presence : Presence) (kind : Byte) (body : List Byte) (sinh : Bool)
    {known consistent inTable found inRange allowed : Prop} (knownIff : isRequestCode kind = true ↔ known)
    (consistentIff : known → (requestConsistent kind body = true ↔ consistent)) (tableIff : namesTable kind = true ↔ inTable)
    (foundIff : noTable dir kind (bodyTable body) = true ↔ ¬found)
    (rangeIff : outOfRange (dir.get (tableNo (bodyTable body))) (bodyIndex body) (requestCount kind body) = true ↔ ¬inRange)
    (allowedIff : accessFails (dir.get (tableNo (bodyTable body))) kind sinh = true ↔ ¬allowed) :
    let r := validate dir presence kind body sinh
    (¬known → r = some 1) ∧ (known → ¬consistent → r = some 2) ∧
    (known → consistent → inTable → ¬found → r = some 3) ∧
    (known → consistent → inTable → found → ¬inRange → r = some 4) ∧
    (known → consistent → inTable → found → inRange → ¬allowed → r = some 5) ∧
    (known → consistent → (inTable → found ∧ inRange ∧ allowed) → r = if presence = .absent then some 7 else none) := by
  intro r
  have unknownIff : (!isRequestCode kind) = true ↔ ¬known := by simp [← knownIff]
  have badIff (isKnown : known) : (!requestConsistent kind body) = true ↔ ¬consistent := by
    simp [← consistentIff isKnown]
  rw [show r = validate dir presence kind body sinh from rfl, validate]
  have missingIff : (namesTable kind && noTable dir kind (bodyTable body)) = true ↔ inTable ∧ ¬found := by
    rw [Bool.and_eq_true, tableIff, foundIff]
  have outsideIff : (namesTable kind && outOfRange (dir.get (tableNo (bodyTable body))) (bodyIndex body)
      (requestCount kind body)) = true ↔ inTable ∧ ¬inRange := by
    rw [Bool.and_eq_true, tableIff, rangeIff]
  have closedIff : (namesTable kind && accessFails (dir.get (tableNo (bodyTable body))) kind sinh) = true ↔
      inTable ∧ ¬allowed := by
    rw [Bool.and_eq_true, tableIff, allowedIff]
  refine ⟨fun unknown => if_pos (unknownIff.2 unknown), fun isKnown bad => ?_, fun isKnown good names missing => ?_,
    fun isKnown good names isFound outside => ?_, fun isKnown good names isFound inside closed => ?_,
    fun isKnown good passes => ?_⟩
  · rw [if_neg fun h => unknownIff.1 h isKnown, if_pos ((badIff isKnown).2 bad)]
    rfl
  all_goals rw [if_neg fun h => unknownIff.1 h isKnown, if_neg fun h => (badIff isKnown).1 h good]
  · rw [if_pos (missingIff.2 ⟨names, missing⟩)]
    rfl
  · rw [if_neg fun h => (missingIff.1 h).2 isFound, if_pos (outsideIff.2 ⟨names, outside⟩)]
    rfl
  · rw [if_neg fun h => (missingIff.1 h).2 isFound, if_neg fun h => (outsideIff.1 h).2 inside,
      if_pos (closedIff.2 ⟨names, closed⟩)]
    rfl
  · have noneMissing (h : inTable ∧ ¬found) : False := h.2 (passes h.1).1
    have noneOutside (h : inTable ∧ ¬inRange) : False := h.2 (passes h.1).2.1
    have noneClosed (h : inTable ∧ ¬allowed) : False := h.2 (passes h.1).2.2
    rw [if_neg (mt missingIff.1 noneMissing), if_neg (mt outsideIff.1 noneOutside), if_neg (mt closedIff.1 noneClosed)]
    exact if_congr beq_iff_eq rfl rfl

theorem outOfRange_iff (e : TableEntry) (kind : Byte) (body : List Byte) :
    outOfRange e (bodyIndex body) (requestCount kind body) = true ↔
      ¬((halfAt body 1).toNat + (if kind = 0x15 then 1 else (halfAt body 3).toNat) ≤ e.length.toNat) := by
  have count : (requestCount kind body).toNat = if kind = 0x15 then 1 else (halfAt body 3).toNat := by
    rw [requestCount_eq]
    split <;> rfl
  rw [outOfRange, decide_eq_true_iff, count, Nat.not_le]
  rfl

/-- A body that validation has found consistent. -/
theorem consistent_of_validate {dir : Vector TableEntry 8} {presence : Presence} {kind : Byte} {body : List Byte}
    {sinh : Bool} (valid : validate dir presence kind body sinh = none) : requestConsistent kind body = true := by
  by_contra bad
  have fails : (!requestConsistent kind body) = true := by simpa using bad
  rw [validate, if_pos fails] at valid
  split at valid <;> exact absurd valid (Option.some_ne_none _)

/-! ### The replay check and the service record -/

theorem isReplay_iff (r : Option Replay) (f : Frame) :
    isReplay r f = true ↔ ∃ k : Replay, r = some k ∧ k.kind = f.kind ∧ k.tag = f.tag ∧ k.check = f.check := by
  cases r <;> simp [isReplay, and_assoc]

/-- What the header of a request gives its service record, the body's fields apart. -/
theorem Service.ofFrame_header (f : Frame) :
    (Service.ofFrame f).station = f.station ∧ (Service.ofFrame f).kind = f.kind ∧ (Service.ofFrame f).tag = f.tag ∧
    (Service.ofFrame f).check = f.check ∧ (Service.ofFrame f).broadcast = (f.station == 255) := by
  unfold Service.ofFrame
  split <;> exact ⟨rfl, rfl, rfl, rfl, rfl⟩

theorem Service.ofFrame_unnamed (f : Frame) (unnamed : namesTable f.kind = false) :
    Service.ofFrame f = Service.ofHeader f := if_neg (by simp [unnamed])

theorem Service.ofFrame_named (f : Frame) (named : namesTable f.kind = true)
    (consistent : requestConsistent f.kind f.body = true) :
    Service.ofFrame f = { Service.ofHeader f with
      table := byteAt f.body 0, index := halfAt f.body 1
      count := if f.kind = 0x15 then 1 else halfAt f.body 3
      andMask := if f.kind = 0x15 then halfAt f.body 3 else 0
      orMask := if f.kind = 0x15 then halfAt f.body 5 else 0 } := by
  rw [Service.ofFrame, if_pos (by simp [named, consistent]), requestCount_eq]
  simp only [kindModifyWord, beq_iff_eq]
  rfl

end Sys2Proof.Machine

/-! PROOF. Requests at a RESPONDER port: acceptance, the replayed answer, the refusal, and the requests that pass
validation (R107 to R116, R121). -/

namespace Sys2Proof.Machine

section Accept
variable (m : Part) (p : PortNo) (x : Port) (f : Frame) (sinh : Bool)

/-- A GOOD frame at a RESPONDER port that is free in RUNNING, by whether it is a request to the port. -/
theorem Part.goodAtResponder_cases :
    let own := (m.portSetup p).ownStation
    let request : Prop := f.kind ≠ 0x21 ∧ f.kind ≠ 0x22 ∧ f.kind ≠ 0x7E ∧ ¬(0x51 ≤ f.kind.toNat ∧ f.kind.toNat ≤ 0x57)
    (¬request ∨ (f.station ≠ own ∧ f.station ≠ 255) →
      (m.setPort p x).goodAtResponder p f sinh = m.setPort p (x.raise .foreign)) ∧
    (request → f.station = own ∨ f.station = 255 → m.engine = .running → x.activity = .idle →
      (m.setPort p x).goodAtResponder p f sinh = (m.setPort p x).requestAtReady p f sinh) := by
  intro own request
  have takenIff : (isRequestFrame f.kind && addressedTo ((m.setPort p x).portSetup p).ownStation f) = true ↔
      request ∧ (f.station = own ∨ f.station = 255) := by
    rw [Bool.and_eq_true, isRequestFrame_iff, addressedTo_iff]
    rfl
  rw [Part.goodAtResponder, Part.raise_setPort, Part.raise_setPort, Part.port_setPort]
  refine ⟨fun other => if_neg fun h => ?_, fun asks named running idle => ?_⟩
  · obtain ⟨asks, named⟩ := takenIff.1 h
    exact other.elim (fun no => no asks) fun no => named.elim no.1 no.2
  · have free : ¬(x.activity.serves = true ∨ (m.setPort p x).engine = .stopping) := by
      simp [idle, running, Activity.serves]
    rw [if_pos (takenIff.2 ⟨asks, named⟩), if_neg free]

/-- Acceptance, by the replay check and by validation. -/
theorem Part.acceptRequest_cases :
    let begun := x.beginService f (m.portSetup p).turnaround
    let replays : Prop := ∃ k : Replay, x.replay = some k ∧ k.kind = f.kind ∧ k.tag = f.tag ∧ k.check = f.check
    let outcome := validate m.setup.tables m.sweep.presence f.kind f.body sinh
    (f.station ≠ 255 → replays →
      (m.setPort p x).acceptRequest p f sinh = (m.setPort p (begun.raise .replays).answerReplay).enterTurnaround p) ∧
    (f.station = 255 ∨ ¬replays →
      (∀ reason, outcome = some reason → (m.setPort p x).acceptRequest p f sinh =
        ((m.setPort p (begun.copyBody f)).fillServiceFault p .refusalSent reason).refuse p reason) ∧
      (outcome = none → (m.setPort p x).acceptRequest p f sinh = (m.setPort p (begun.copyBody f)).serveValidated p f sinh)) := by
  intro begun replays outcome
  have replayIff : (f.station != 255 && isReplay ((m.setPort p x).port p).replay f) = true ↔ f.station ≠ 255 ∧ replays := by
    rw [Part.port_setPort, Bool.and_eq_true, bne_iff_ne, isReplay_iff]
  have begins : (m.setPort p x).onPort p (fun y => y.beginService f ((m.setPort p x).portSetup p).turnaround) =
      m.setPort p begun := m.onPort_setPort p x _
  refine ⟨fun single same => ?_, fun other => ?_⟩
  · rw [Part.acceptRequest, if_pos (replayIff.2 ⟨single, same⟩), begins, Part.raise_setPort, Part.onPort_setPort]
  · have taken : ¬(f.station != 255 && isReplay ((m.setPort p x).port p).replay f) = true := fun h => by
      obtain ⟨single, same⟩ := replayIff.1 h
      exact other.elim single fun no => no same
    rw [Part.acceptRequest, if_neg taken, begins, Part.onPort_setPort]
    have same : validate (m.setPort p x).setup.tables (m.setPort p x).sweep.presence f.kind f.body sinh = outcome := rfl
    dsimp only
    rw [same]
    refine ⟨fun reason refused => by rw [refused], fun valid => by rw [valid]⟩

/-- What is done with a request that has passed validation, by its kind. -/
theorem Part.serveValidated_cases :
    let count : Half := if f.kind = 0x15 then 1 else halfAt f.body 3
    (namesTable f.kind = true → m.serveValidated p f sinh = { m with
      inbox := m.inbox ++ [.arrive p (tableNo (byteAt f.body 0))
        (if f.kind = 0x11 ∨ f.kind = 0x12 then .shared else .exclusive) (halfAt f.body 1).toNat count.toNat] }) ∧
    (f.kind = 0x16 → m.serveValidated p f sinh = m.reply p (probeBody m p sinh)) ∧
    (f.kind = 0x17 → m.serveValidated p f sinh = (m.onPort p Port.clearTallies).reply p []) := by
  intro count
  refine ⟨fun named => ?_, fun probe => ?_, fun clear => ?_⟩
  · have mode : requestMode f.kind = if f.kind = 0x11 ∨ f.kind = 0x12 then .shared else .exclusive := by
      simp [requestMode, isFetch, kindFetchWords, kindFetchBits]
    rw [Part.serveValidated, if_pos named, requestCount_eq, mode]
    rfl
  · rw [Part.serveValidated, probe]
    rfl
  · rw [Part.serveValidated, clear]
    rfl

end Accept

/-- A port that has begun to serve a request, its service record apart (R108). -/
def Port.takesRequest (x : Port) (f : Frame) (turnaround : Byte) : Port :=
  { x with
    activity := .serving, answerDelay := decide (f.station ≠ 255 ∧ turnaround ≠ 0)
    memStep := .none, dataHold := f.body, peer := { x.peer with grantPhase := .none } }

theorem Port.beginService_eq (x : Port) (f : Frame) (turnaround : Byte) :
    x.beginService f turnaround = { x.takesRequest f turnaround with service := Service.ofHeader f } := by
  have delay : (f.station != 255 && turnaround != 0) = decide (f.station ≠ 255 ∧ turnaround ≠ 0) := by
    rw [Bool.decide_and, decide_not, decide_not]
    rfl
  rw [Port.beginService, delay]
  rfl

/-- An answer that is ready is held while the turnaround delay runs, and else sent (R123). -/
def Port.answers (z : Port) (turnaround : Byte) : Port :=
  if turnaround = 0 then { z with
    activity := .replying, tx := some .answer, silence := false
    receiver := { state := .hunt, buffer := [], bodyLength := none, check := 0xFFFF } }
  else { z with activity := .turnaround }

section Answered
variable (m : Part) (p : PortNo) (z : Port) (f : Frame) (turnaround : Byte) (single : f.station ≠ 255)
  (delay : z.answerDelay = decide (f.station ≠ 255 ∧ turnaround ≠ 0))
include single delay

theorem Port.answers_of_delay (y : Port) : (if z.answerDelay = true then { y with activity := .turnaround }
    else { y with
      activity := .replying, tx := some .answer, silence := false
      receiver := { state := .hunt, buffer := [], bodyLength := none, check := 0xFFFF } }) = y.answers turnaround := by
  rw [Port.answers]
  by_cases passed : turnaround = 0
  · rw [if_pos passed, if_neg (by simp [delay, passed])]
  · rw [if_neg passed, if_pos (by rw [delay]; exact decide_eq_true ⟨single, passed⟩)]

theorem Part.enterTurnaround_answers (still : z.memStep = .none) :
    (m.setPort p z).enterTurnaround p = m.setPort p (z.answers turnaround) := by
  rw [Part.enterTurnaround_eq, Part.port_setPort, Part.setPort_setPort, ← Port.answers_of_delay z f turnaround single delay,
    ← still]

end Answered

/-- A request whose validation has failed: the fault record and the refusal (R109, R112, R122, R124). -/
theorem Part.refuse_request (m : Part) (p : PortNo) (x : Port) (f : Frame) (v : Service) (turnaround reason : Byte)
    (header : v.station = f.station ∧ v.kind = f.kind ∧ v.tag = f.tag ∧ v.check = f.check ∧
      v.broadcast = (f.station == 255)) :
    let y : Port := { x.takesRequest f turnaround with
      tallies := { x.tallies with refusalsSent := satHalf x.tallies.refusalsSent }
      fault := ⟨.refusalSent, 0xFF, f.station, f.kind, f.tag, reason, m.sweep.count⟩
      service := v }
    let answer := frameProper f.station 0x7E f.tag [f.kind, reason]
    let z : Port := { y with
      service := { v with result := .refusal reason }
      answerBuffer := answer
      replay := if reason = 6 ∨ reason = 7 ∨ reason = 8 then none else some ⟨f.kind, f.tag, f.check, answer⟩ }
    let refuses := ((m.setPort p { x.takesRequest f turnaround with service := v }).fillServiceFault p .refusalSent
      reason).refuse p reason
    (f.station = 255 → refuses = m.setPort p { y with activity := .idle }) ∧
    (f.station ≠ 255 → refuses = m.setPort p (z.answers turnaround)) := by
  obtain ⟨station, kind, tag, check, broadcast⟩ := header
  obtain ⟨_, _, _, _, _, _, _, _, _, _, _⟩ := v
  subst station kind tag check broadcast
  intro y answer z refuses
  have transient : (if isTransient reason = true then none else some (⟨f.kind, f.tag, f.check, answer⟩ : Replay)) =
      if reason = 6 ∨ reason = 7 ∨ reason = 8 then none else some ⟨f.kind, f.tag, f.check, answer⟩ :=
    if_congr (by simp [isTransient, reasonBusy, reasonHostAbsent, reasonHostFault, or_assoc]) rfl rfl
  unfold refuses
  rw [Part.fillServiceFault_setPort, Part.refuse_setPort]
  dsimp only
  rw [transient]
  refine ⟨fun all => ?_, fun single => ?_⟩
  · rw [if_pos (beq_iff_eq.2 all)]
    rfl
  · rw [if_neg (mt beq_iff_eq.1 single)]
    exact congrArg (m.setPort p) (Port.answers_of_delay (x.takesRequest f turnaround) f turnaround single rfl z)

/-- The directory as a PROBE reply gives it (R82). -/
theorem presentMask_getLsbD (dir : Vector TableEntry 8) (t : TableNo) :
    (presentMask dir).getLsbD t.val = (dir.get t).present.getLsbD 0 := by
  rw [presentMask, byteOfBits_getLsbD _ _ t.isLt, show Fin.ofNat 8 t.val = t from Fin.ext (Nat.mod_eq_of_lt t.isLt)]
  rfl

theorem Port.copyBody_eq (x : Port) (f : Frame) (turnaround : Byte) :
    (x.beginService f turnaround).copyBody f = { x.takesRequest f turnaround with service := Service.ofFrame f } := by
  rw [Port.beginService_eq]
  rfl

/-- The stored answer is given again (R111). -/
theorem Part.replay_request (m : Part) (p : PortNo) (x : Port) (f : Frame) (r : Replay) (turnaround : Byte)
    (kept : x.replay = some r) (single : f.station ≠ 255) :
    let z : Port := { x.takesRequest f turnaround with
      tallies := { x.tallies with replays := satHalf x.tallies.replays }
      service := { Service.ofHeader f with result := .replay }
      answerBuffer := r.answer }
    (m.setPort p ((x.beginService f turnaround).raise .replays).answerReplay).enterTurnaround p =
      m.setPort p (z.answers turnaround) := by
  intro z
  have stored : ((x.beginService f turnaround).raise .replays).answerReplay =
      { z with answerBuffer := (x.replay.map (·.answer)).getD [] } := by
    rw [Port.beginService_eq]
    rfl
  rw [stored, kept]
  exact m.enterTurnaround_answers p z f turnaround single rfl rfl

/-- A GOOD frame at a RESPONDER port. -/
theorem exec_characterArrival_responder (s : State) (p : PortNo) (levels : Levels) (edge sinh : Bool) (f : Frame)
    (completes : s.completesFrame p levels edge f) (responder : (s.part.portSetup p).role = 2) :
    exec (.characterArrival p levels edge sinh) s =
      .next (s.ends ((s.part.tick.setPort p (s.part.reported p)).goodAtResponder p f sinh)) := by
  rw [exec_characterArrival_good s p levels edge sinh f completes, PortSetup.roleOf_responder _ responder]

/-- Settles O24: what becomes of a request at a free port by the replay check and by validation, and the steps of
validation. -/
theorem requestIsReplayedOrRefused : Obligations.RequestIsReplayedOrRefused := by
  refine ⟨fun s p levels edge sinh f completes responder => ?_, fun dir presence kind body sinh => ?_⟩
  · intro setup y becomes addressed broadcastable request
    have arrives := exec_characterArrival_responder s p levels edge sinh f completes responder
    obtain ⟨foreign, taken⟩ := s.part.tick.goodAtResponder_cases p y f sinh
    have effect (m : Part) (h : (s.part.tick.setPort p y).goodAtResponder p f sinh = m) :
        exec (.characterArrival p levels edge sinh) s = .next (s.ends m) := arrives.trans (by rw [h])
    refine ⟨fun other => effect _ (foreign other), fun running idle asks => ?_⟩
    intro x sent replays outcome
    obtain ⟨dropped, accepted⟩ := s.part.tick.requestAtReady_cases p y f sinh
    obtain ⟨replayed, validated⟩ := s.part.tick.acceptRequest_cases p y f sinh
    have accepts (named : (f.station = 255 ∧ broadcastable) ∨ addressed) :
        (s.part.tick.setPort p y).goodAtResponder p f sinh = (s.part.tick.setPort p y).acceptRequest p f sinh := by
      obtain ⟨all, kind⟩ | ⟨own, single⟩ := named
      · exact (taken asks (.inr all) running idle).trans (accepted (.inr kind))
      · exact (taken asks (.inl own) running idle).trans (accepted (.inl single))
    have notReplayed (fresh : ∀ r : Replay, x.replay = some r → ¬replays r) :
        ¬∃ k : Replay, y.replay = some k ∧ k.kind = f.kind ∧ k.tag = f.tag ∧ k.check = f.check := by
      rintro ⟨k, kept, same⟩
      exact fresh k kept same
    refine ⟨fun all notKind => ?_, fun named r kept same => ?_, fun reason refused => ?_, fun valid named => ?_⟩
    · exact effect _ ((taken asks (.inr all) running idle).trans (dropped all notKind))
    · refine effect _ ((accepts (.inr named)).trans ((replayed named.2 ⟨r, kept, same⟩).trans ?_))
      exact s.part.tick.replay_request p y f r setup.turnaround kept named.2
    · intro refusedPort answer
      obtain ⟨broadcast, single⟩ := s.part.tick.refuse_request p y f (Service.ofFrame f) setup.turnaround reason
        (Service.ofFrame_header f)
      rw [← Port.copyBody_eq] at broadcast single
      exact ⟨fun all kind => effect _ ((accepts (.inl ⟨all, kind⟩)).trans
          (((validated (.inl all)).1 reason refused).trans (broadcast all))),
        fun named fresh => effect _ ((accepts (.inr named)).trans
          (((validated (.inr (notReplayed fresh))).1 reason refused).trans (single named.2)))⟩
    · intro v count
      have untaken : f.station = 255 ∨ ¬∃ k : Replay, y.replay = some k ∧ k.kind = f.kind ∧ k.tag = f.tag ∧
          k.check = f.check := named.imp (·.1) fun h => notReplayed h.2
      have serves := (accepts (named.imp id (·.1))).trans ((validated untaken).2 valid)
      rw [Port.copyBody_eq] at serves
      obtain ⟨table, probe, clear⟩ := (s.part.tick.setPort p
        { y.takesRequest f setup.turnaround with service := Service.ofFrame f }).serveValidated_cases p f sinh
      have unnamed (high : ¬f.kind.toNat ≤ 0x15) : Service.ofFrame f = Service.ofHeader f :=
        Service.ofFrame_unnamed f (Bool.eq_false_iff.2 fun h => high ((namesTable_iff _).1 h).2)
      refine ⟨fun low high => ?_, fun isProbe => ?_, fun isClear => ?_⟩
      · have names := (namesTable_iff f.kind).2 ⟨low, high⟩
        refine effect _ (serves.trans ((table names).trans ?_))
        rw [Service.ofFrame_named f names (consistent_of_validate valid)]
        rfl
      · refine ⟨presentMask s.part.setup.tables, fun t => presentMask_getLsbD _ t, ?_⟩
        refine effect _ (serves.trans ((probe isProbe).trans ?_))
        rw [unnamed (by simp [isProbe])]
        rfl
      · refine effect _ (serves.trans ((clear isClear).trans ?_))
        rw [Part.onPort_setPort, unnamed (by simp [isClear])]
        rfl
  · exact validate_steps dir presence kind body sinh (isRequestCode_iff kind) (requestConsistent_iff kind body)
      (namesTable_iff kind) (noTable_iff dir kind (byteAt body 0)) (outOfRange_iff _ kind body) (accessFails_iff _ kind sinh)

end Sys2Proof.Machine

/-! PROOF. The check of a frame, and the receiver machine over the bytes of a frame that the part has formed (R70, R71,
R74, R75). -/

namespace Sys2Proof.Machine

/-! ### The check register (R71) -/

theorem crcShift_eq (c : Half) : crcShift c = if c.getLsbD 15 = true then (c <<< 1) ^^^ 0x1021 else c <<< 1 := rfl

theorem byte_append_zero (b : Byte) : (b ++ (0 : Byte) : Half) = b.zeroExtend 16 <<< 8 := by
  refine BitVec.eq_of_getLsbD_eq fun i inside => ?_
  rw [BitVec.getLsbD_append, BitVec.getLsbD_shiftLeft]
  by_cases low : i < 8
  · simp [low]
  · simp [low, inside]
    omega

theorem crcByte_eq (c : Half) (b : Byte) : crcByte c b =
    crcShift (crcShift (crcShift (crcShift (crcShift (crcShift (crcShift (crcShift
      (c ^^^ (b.zeroExtend 16 <<< 8))))))))) := by
  rw [crcByte, byte_append_zero]
  rfl

/-! ### The two check bytes -/

theorem half_of_bytes (h : Half) : (h.extractLsb' 8 8 ++ h.extractLsb' 0 8 : Half) = h := by
  refine BitVec.eq_of_getLsbD_eq fun i inside => ?_
  rw [BitVec.getLsbD_append]
  by_cases low : i < 8
  · simp [low]
  · have place : 8 + (i - 8) = i := by omega
    have high : i - 8 < 8 := by omega
    simp [low, place, high]

/-- A half-word behind the bytes `l`. -/
theorem halfAt_append (l : List Byte) (low high : Byte) : halfAt (l ++ [low] ++ [high]) l.length = high ++ low := by
  simp [halfAt, byteAt, List.getD_eq_getElem?_getD]

/-! ### A formed frame at the receiver machine -/

/-- The receiver machine and its report over good characters. -/
def Receiver.takes (r : Receiver × Option Report) (l : List Byte) : Receiver × Option Report :=
  l.foldl (fun x b => x.1.arrive b .good) r

theorem Receiver.takes_append (r : Receiver × Option Report) (l k : List Byte) :
    Receiver.takes r (l ++ k) = Receiver.takes (Receiver.takes r l) k := List.foldl_append

/-- The header is covered, and its length byte fixes the length. -/
theorem Receiver.takes_header (station kind tag : Byte) (body : List Byte) (short : body.length ≤ 248) :
    let header := [station, kind, tag, BitVec.ofNat 8 body.length]
    Receiver.takes (⟨.collect, [], none, 0xFFFF⟩, none) header =
      (⟨.collect, header, some body.length, crc header⟩, none) := by
  intro header
  have length : (BitVec.ofNat 8 body.length).toNat = body.length := by
    rw [BitVec.toNat_ofNat]
    omega
  have last := Receiver.arrive_length ⟨.collect, [station, kind, tag], none, crc [station, kind, tag]⟩
    (BitVec.ofNat 8 body.length) rfl rfl rfl (by omega)
  rw [length] at last
  exact last

/-- The bytes of the body are stored and covered. -/
theorem Receiver.takes_body (n : Nat) (l : List Byte) : ∀ (stored : List Byte) (check : Half), 4 ≤ stored.length →
    stored.length + l.length ≤ 4 + n →
    Receiver.takes (⟨.collect, stored, some n, check⟩, none) l =
      (⟨.collect, stored ++ l, some n, l.foldl crcByte check⟩, none) := by
  induction l with
  | nil => intro stored check _ _; simp [Receiver.takes]
  | cons b l ih =>
    intro stored check late fits
    rw [List.length_cons] at fits
    have first := Receiver.arrive_body ⟨.collect, stored, some n, check⟩ b n rfl rfl late (by simp only; omega)
    rw [if_pos (by simp only; omega)] at first
    have rest := ih (stored ++ [b]) (crcByte check b) (by simp; omega) (by simp; omega)
    rw [List.append_assoc] at rest
    exact (congrArg (fun x => Receiver.takes x l) first).trans rest

/-- The check bytes that equal the check register make the frame GOOD. -/
theorem Receiver.takes_check (covered : List Byte) (n : Nat) (c : Half) (complete : covered.length = 4 + n) :
    Receiver.takes (⟨.collect, covered, some n, c⟩, none) (halfBytes c) =
      (Receiver.hunting, some (.good (Frame.ofBuffer (covered ++ halfBytes c) n))) := by
  have low := Receiver.arrive_body ⟨.collect, covered, some n, c⟩ (c.extractLsb' 0 8) n rfl rfl (by simp only; omega)
    (by simp only; omega)
  rw [if_neg (by simp only; omega)] at low
  have high := Receiver.arrive_last ⟨.collect, covered ++ [c.extractLsb' 0 8], some n, c⟩ (c.extractLsb' 8 8) n rfl rfl
    (by simp; omega)
  rw [if_pos (by rw [← complete, halfAt_append, half_of_bytes])] at high
  rw [List.append_assoc] at high
  exact (congrArg (fun x : Receiver × Option Report => x.1.arrive (c.extractLsb' 8 8) .good) low).trans high

theorem Frame.ofBuffer_formed (station kind tag length : Byte) (body : List Byte) (c : Half) :
    Frame.ofBuffer ([station, kind, tag, length] ++ body ++ halfBytes c) body.length = ⟨station, kind, tag, body, c⟩ := by
  have check : halfAt ([station, kind, tag, length] ++ body ++ halfBytes c) (4 + body.length) = c := by
    have place : ([station, kind, tag, length] ++ body).length = 4 + body.length := by simp; omega
    have behind := halfAt_append ([station, kind, tag, length] ++ body) (c.extractLsb' 0 8) (c.extractLsb' 8 8)
    rw [place, half_of_bytes, List.append_assoc] at behind
    exact behind
  rw [Frame.ofBuffer, check]
  simp [byteAt]

/-- A formed frame, its lead before it, is received GOOD. -/
theorem Receiver.takes_frameProper (station kind tag : Byte) (body : List Byte) (short : body.length ≤ 248) :
    Receiver.takes ((⟨.hunt, [], none, 0xFFFF⟩ : Receiver).arrive 0xC5 .good) (frameProper station kind tag body) =
      (Receiver.hunting, some (.good ⟨station, kind, tag, body, crc (coveredBytes station kind tag body)⟩)) := by
  have lead : (⟨.hunt, [], none, 0xFFFF⟩ : Receiver).arrive 0xC5 .good = (⟨.collect, [], none, 0xFFFF⟩, none) := rfl
  let header := [station, kind, tag, BitVec.ofNat 8 body.length]
  have covers : body.foldl crcByte (crc header) = crc (header ++ body) := List.foldl_append.symm
  have length : (header ++ body).length = 4 + body.length := by simp [header]; omega
  rw [frameProper, coveredBytes, lead, Receiver.takes_append, Receiver.takes_append,
    Receiver.takes_header station kind tag body short,
    Receiver.takes_body body.length body header (crc header) (Nat.le_refl 4) (Nat.le_refl _), covers,
    Receiver.takes_check (header ++ body) body.length _ length, Frame.ofBuffer_formed]

end Sys2Proof.Machine

/-! PROOF. Characters on the line: their levels, their value and status as sampled, and the levels of TXD (R66, R68,
R72). -/

namespace Sys2Proof.Machine

/-! ### The parity bit -/

theorem foldl_xor_eq (f : Nat → Bool) (l : List Nat) : ∀ acc : Bool,
    l.foldl (fun acc i => acc ^^ f i) acc = (acc ^^ decide (l.countP f % 2 = 1)) := by
  induction l with
  | nil => simp
  | cons i l ih =>
    intro acc
    rw [List.foldl_cons, ih, List.countP_cons]
    cases f i
    · simp
    · have flips : ((l.countP f + 1) % 2 = 1) ↔ ¬(l.countP f % 2 = 1) := by omega
      simp only [if_true, flips, decide_not]
      cases acc <;> cases decide (l.countP f % 2 = 1) <;> rfl

theorem oddOnes_eq (v : Byte) : oddOnes v = decide (((List.range 8).countP fun i => v.getLsbD i) % 2 = 1) := by
  rw [oddOnes, foldl_xor_eq (fun i => v.getLsbD i), Bool.false_xor]

/-! ### The levels of a character -/

theorem parityBits_eq (parity v : Byte) (checked : parity ≠ 0) :
    parityBits parity v = [if parity = 1 then oddOnes v else !oddOnes v] := by
  rw [parityBits, if_neg (mt beq_iff_eq.1 checked)]
  by_cases even : parity = 1
  · rw [if_pos even, if_pos (beq_iff_eq.2 even)]
  · rw [if_neg even, if_neg (mt beq_iff_eq.1 even)]

theorem charLevels_length (parity v : Byte) : (charLevels parity v).length = if parity = 0 then 10 else 11 := by
  by_cases none : parity = 0
  · simp [charLevels, parityBits, none]
  · rw [charLevels, parityBits_eq parity v none, if_neg none]
    rfl

theorem charLevels_stop (parity v : Byte) : (charLevels parity v).getLast? = some true := List.getLast?_concat

theorem charLevels_data (parity v : Byte) (i : Nat) (inside : i < 8) :
    (charLevels parity v)[i + 1]? = some (v.getLsbD i) := by
  simp [charLevels, List.getElem?_append, inside]

theorem charLevels_parity (parity v : Byte) (checked : parity ≠ 0) :
    (charLevels parity v)[9]? = some (if parity = 1 then oddOnes v else !oddOnes v) := by
  rw [charLevels, parityBits_eq parity v checked]
  rfl

/-- The place of the stop bit is the last of the character. -/
theorem stopPlace_eq (parity v : Byte) : (charLevels parity v).length - 1 = stopPlace parity := by
  rw [charLevels_length]
  by_cases none : parity = 0
  · rw [if_pos none, stopPlace, if_pos (beq_iff_eq.2 none)]
  · rw [if_neg none, stopPlace, if_neg (mt beq_iff_eq.1 none)]

/-! ### The sampled levels -/

/-- The levels of a character, sampled at the middles of its bits. -/
def Samples (parity v : Byte) (levels : Levels) : Prop :=
  ∀ i, i < (charLevels parity v).length → (charLevels parity v)[i]? = some (levels.getLsbD i)

theorem charLevels_long (parity v : Byte) : 10 ≤ (charLevels parity v).length := by
  rw [charLevels_length]
  split <;> omega

section Sampled
variable {parity v : Byte} {levels : Levels} (sampled : Samples parity v levels)
include sampled

theorem startConfirmed_of_samples : startConfirmed levels = true := by
  have start := sampled 0 (Nat.lt_of_lt_of_le (by decide) (charLevels_long parity v))
  have space : (charLevels parity v)[0]? = some false := rfl
  rw [space, Option.some_inj] at start
  rw [startConfirmed, ← start]
  rfl

theorem charValue_of_samples : charValue levels = v := by
  refine BitVec.eq_of_getLsbD_eq fun i inside => ?_
  have bit := sampled (i + 1) (Nat.lt_of_lt_of_le (by omega) (charLevels_long parity v))
  rw [charLevels_data parity v i inside, Option.some_inj] at bit
  rw [charValue, BitVec.getLsbD_extractLsb', decide_eq_true inside, Bool.true_and, Nat.add_comm, bit]

theorem stop_of_samples : levels.getLsbD (stopPlace parity) = true := by
  have long := charLevels_long parity v
  have stop := sampled ((charLevels parity v).length - 1) (by omega)
  rw [← List.getLast?_eq_getElem?, charLevels_stop, Option.some_inj, stopPlace_eq] at stop
  exact stop.symm

end Sampled

/-- The parity bit sampled is another than that of the value sampled. -/
theorem parityFails_iff (parity : Byte) (levels : Levels) : parityFails parity levels = true ↔
    parity ≠ 0 ∧ (charLevels parity (charValue levels))[9]? ≠ some (levels.getLsbD 9) := by
  by_cases checked : parity = 0
  · simp [parityFails, checked]
  · rw [charLevels_parity _ _ checked, parityFails, parityBits_eq _ _ checked, Bool.and_eq_true, bne_iff_ne, bne_iff_ne,
      ne_eq [_], List.singleton_inj, ne_eq (some _), Option.some_inj, eq_comm (a := levels.getLsbD 9)]

theorem charStatus_good {parity v : Byte} {levels : Levels} (sampled : Samples parity v levels) :
    charStatus parity levels false = .good := by
  have agrees : ¬parityFails parity levels = true := by
    rw [parityFails_iff, charValue_of_samples sampled]
    rintro ⟨checked, differs⟩
    exact differs (sampled 9 (charLevels_long parity v))
  rw [charStatus, if_neg Bool.false_ne_true, stop_of_samples sampled, if_neg (by decide), if_neg agrees]

/-! ### TXD -/

/-- A list of pieces of one length: the place of a bit names its piece and its place there. -/
theorem getD_flatMap {α β : Type} (f : α → List β) (n : Nat) (d : β) (j : Nat) (inside : j < n) (l : List α) :
    ∀ i, (∀ a ∈ l, (f a).length = n) →
    (l.flatMap f).getD (n * i + j) d = (l[i]?).elim d fun a => (f a).getD j d := by
  induction l with
  | nil => simp
  | cons a l ih =>
    intro i lengths
    have first : (f a).length = n := lengths a (List.mem_cons_self ..)
    rw [List.flatMap_cons]
    cases i with
    | zero => rw [List.getD_append _ _ _ _ (by omega)]; simp
    | succ i =>
      have place : n * (i + 1) + j - (f a).length = n * i + j := by rw [first, Nat.mul_succ]; omega
      rw [List.getD_append_right _ _ _ _ (by rw [first, Nat.mul_succ]; omega), place,
        ih i fun b member => lengths b (List.mem_cons_of_mem _ member), List.getElem?_cons_succ]

/-- Settles O26: the check, formed frames and their reception, and characters on the line and as sampled. -/
theorem formedFrameIsReceivedGood : Obligations.FormedFrameIsReceivedGood := by
  refine ⟨fun c b l => ⟨crcByte_eq c b, rfl⟩, fun station kind tag body => rfl, fun station kind tag body short => ?_,
    fun x => ?_, fun m p i j => ?_, fun m p levels edge => ?_, fun parity v levels valid => ?_⟩
  · have received := Receiver.takes_frameProper station kind tag body short
    exact ⟨congrArg Prod.snd received, congrArg Prod.fst received⟩
  · refine ⟨fun quiet => ?_, fun request => ?_, fun answer => ?_⟩
    · rw [Port.txFrame, quiet]
    · rw [Port.txFrame, request]
      rfl
    · obtain tx | tx | tx := answer <;> rw [Port.txFrame, tx] <;> rfl
  · intro bits inside
    rw [Part.txd, Part.txLevels, getD_flatMap _ bits true j inside _ i fun v _ => charLevels_length _ v]
    cases (m.port p).txFrame[i]? <;> rfl
  · refine ⟨?_, rfl⟩
    rw [Part.arrivalStatus, Bool.decide_or, Bool.decide_eq_true]
  · intro sent ones
    refine ⟨charLevels_length parity v, rfl, charLevels_stop parity v, charLevels_data parity v, fun even => ?_,
      fun odd => ?_, fun sampled => ?_, fun low => ?_, fun stop value checked differs => ?_⟩
    · rw [charLevels_parity parity v (by simp [even]), if_pos even, oddOnes_eq]
    · rw [charLevels_parity parity v (by simp [odd]), if_neg (by simp [odd]), oddOnes_eq, ← decide_not]
      have other : (¬ones % 2 = 1) ↔ ones % 2 = 0 := by omega
      exact congrArg some (decide_eq_decide.2 other)
    · exact ⟨startConfirmed_of_samples sampled, charValue_of_samples sampled, charStatus_good sampled, rfl⟩
    · rw [stopPlace_eq] at low
      rw [charStatus, if_neg Bool.false_ne_true, low]
      rfl
    · rw [stopPlace_eq] at stop
      have fails := (parityFails_iff parity levels).2 ⟨checked, by rw [value]; exact differs⟩
      rw [charStatus, if_neg Bool.false_ne_true, stop, if_neg (by decide), if_pos fails]

end Sys2Proof.Machine
